-- ==== Sys2Proof/Word.lean ====
section
/-! DEFINITION. The word types of the block (00_scope.md R9: all values are unsigned bit strings). -/

namespace Sys2Proof

/-- One byte, the unit of every transfer (R55). -/
abbrev Byte := BitVec 8

/-- A 16-bit field: an address or a message type (R22). -/
abbrev Half := BitVec 16

/-- A 32-bit value: the CRC accumulator and every CRC (R21, R22). -/
abbrev Word := BitVec 32

end Sys2Proof
end

