-- ==== Sys2Proof/Config.lean ====
section
/-! DEFINITION. The constants the spec fixes (00_scope.md R5), the parameters it leaves open (R8) and the
one free value of the model. -/

namespace Sys2Proof

/-- `CRC_POLY`, the generator without its x^32 term (R5, R110). There is no input or output reflection and
no final XOR. -/
def Config.crcPoly : Word := 0x04C11DB7

/-- `CRC_INIT`, the default initial accumulator value (R5), and the initial value of every CRC the Frame
Codec computes (R137). -/
def Config.crcInit : Word := 0xFFFFFFFF

/-- `START_MARKER`, the byte ':' (R5). -/
def Config.startMarker : Byte := 0x3A

/-- `CR`, the second-to-last byte of a frame (R5). -/
def Config.cr : Byte := 0x0D

/-- `LF`, the last byte of a frame (R5). -/
def Config.lf : Byte := 0x0A

/-- `HEADER_LEN`: marker, address, type (R5). -/
def Config.headerLen : Nat := 5

/-- `CRC_LEN` (R5). -/
def Config.crcLen : Nat := 4

/-- `TERM_LEN`: CR and LF (R5). -/
def Config.termLen : Nat := 2

/-- `TRAILER_LEN = CRC_LEN + TERM_LEN` (R5). -/
def Config.trailerLen : Nat := Config.crcLen + Config.termLen

/-- `OVERHEAD`: the length of a frame with an empty payload, 11 (R5, R6). -/
def Config.overhead : Nat := Config.headerLen + Config.trailerLen

/-- `MIN_LEN`: the search gate and the smallest candidate length, 10 (R5, R6, D4). The search functions take
it as an argument, so that a claim can be made for 11 as well. -/
def Config.minLen : Nat := 10

/-- The parameters of one implementation that the spec leaves open (R8); `none` is no bound. The machine takes
them as an argument (`State.resetWith`, `coreWith`), and State carries them as data no step changes (log 6). -/
structure Params where
  /-- `BUF_CAP` (R8, D7). -/
  bufCap : Option Nat
  /-- `MAX_PAYLOAD` (R8, D8). -/
  maxPayload : Option Nat
  /-- `N_DEC`, the number of Stream Decoder instances (R8; log 3). -/
  nDec : Option Nat
deriving DecidableEq, Repr

/-- The reference values of R8: `BUF_CAP` and `MAX_PAYLOAD` infinite. For `N_DEC` R8 gives none, and the model
takes no bound (log 3, DESIGN CHOICE). -/
def Config.reference : Params := { bufCap := none, maxPayload := none, nDec := none }

/-- FREE VALUE (log 16). R200 says a window reports at most one class of event, R212 says one event per
occurrence of each class; they differ for a FIXED window with a wrong CRC and a wrong address or type.
Whether the second event is then reported is left free (I8). -/
opaque Config.reportsDropAfterBadCrc : Bool

end Sys2Proof
end

