-- ==== Sys2Proof/Machine/Bytes.lean ====
section
/-! DEFINITION. Access to a finite byte sequence: big-endian reads and writes, slices (00_scope.md R9, R10;
20_memory.md R50, R55). -/

namespace Sys2Proof.Machine

/-- The `n` big-endian bytes of `v`, most significant first (R10 `be16`, `be32`; R50). -/
def beBytes : Nat → Nat → List Byte
  | 0, _ => []
  | n + 1, v => BitVec.ofNat 8 (v / 256 ^ n) :: beBytes n v

/-- `be16(v)` (R10). -/
def be16 (v : Half) : List Byte := beBytes 2 v.toNat

/-- `be32(v)` (R10). -/
def be32 (v : Word) : List Byte := beBytes 4 v.toNat

/-- The value of a whole sequence read big-endian (R10). -/
def beValue (s : List Byte) : Nat := s.foldl (fun v b => 256 * v + b.toNat) 0

/-- The slice `S[a : b)`, empty when `b <= a` (R9). -/
def slice (s : List Byte) (a b : Nat) : List Byte := (s.drop a).take (b - a)

/-- `MemRead(S, a, n)` (R10); used with `a + n <= len(S)` only. -/
def memRead (s : List Byte) (a n : Nat) : Nat := beValue (slice s a (a + n))

/-- `MemWrite(S, a, n, v)` (R10); used with `a + n <= len(S)` only. -/
def memWrite (s : List Byte) (a n v : Nat) : List Byte := s.take a ++ beBytes n v ++ s.drop (a + n)

/-- `S[i]` (R9). No rule reads at or beyond the end (R59); the value there is 0 in the model (log 22). -/
def byteAt (s : List Byte) (i : Nat) : Byte := s.getD i 0

/-- The frame layout of R80 for given field values: marker, address, type, payload, CRC, CR, LF. -/
def frameBytes (address type : Half) (payload : List Byte) (crc : Word) : List Byte :=
  [Config.startMarker] ++ be16 address ++ be16 type ++ payload ++ be32 crc ++ [Config.cr, Config.lf]

end Sys2Proof.Machine
end

