-- ==== Sys2Proof/Syntax.lean ====
section
/-! DEFINITION. The operations, one constructor per row of spec/opcode_table.json (30_encoding.md R88, R92,
R97; 43_dispatcher.md R180, R182, R184; R80). -/

namespace Sys2Proof

/-- The two length policies (10_state.md R26). -/
inductive Mode where
  /-- FIXED, coded 0 (D6). -/
  | fixedLen
  /-- VARIABLE, coded 1 (D6). -/
  | variableLen
deriving DecidableEq, Repr

/-- The operations. `d` is the number of the Stream Decoder instance at whose ports the operation is made
(the `d.RECEIVE(C)` of R182; log 3). -/
inductive Instr where
  /-- `CRC.INIT v` (R111). -/
  | crcInit (v : Word)
  /-- `CRC.BYTE b` (R112). -/
  | crcByte (b : Byte)
  /-- `CRC.READ` (R113). -/
  | crcRead
  /-- `ENCODE addr, type, payload` (R130); the operands are naturals, reduced by the operation. -/
  | encode (addr type : Nat) (payload : List Byte)
  /-- `TRY_DECODE W, e` (R132). -/
  | tryDecode (window : List Byte) (expected : Nat)
  /-- `CONFIGURE mode, L, type, target, verbose` at instance `d` (R150). -/
  | configure (d : Nat) (mode : Mode) (len : Nat) (type target : Half) (verbose : Bool)
  /-- `RECEIVE C` at instance `d` (R151). -/
  | receive (d : Nat) (chunk : List Byte)
  /-- `op = 000`, which selects no operation (R92). -/
  | reserved000
  /-- The pseudo-operation `CRC32 S, v` (R97, R114). -/
  | crc32 (bytes : List Byte) (v : Word)
  /-- `ADD_DECODER d` (R180). -/
  | addDecoder (d : Nat)
  /-- `BROADCAST C` (R182). -/
  | broadcast (chunk : List Byte)
  /-- `SEND B` (R184). -/
  | send (bytes : List Byte)
  /-- A frame on the wire with the given field values (R80); any CRC value is legal (R91). -/
  | frame (address type : Half) (payload : List Byte) (crc : Word)
deriving DecidableEq, Repr

/-- Why a request is no operation: the names the decoder rejects by. -/
inductive DecodeError where
  /-- A request with no byte at all. -/
  | noSelect
  /-- A select byte that names no operation (log 2). -/
  | unknownSelect (b : Byte)
  /-- Operand bytes are missing. -/
  | truncated
  /-- Bytes follow the last operand. -/
  | trailingBytes
  /-- A mode or verbose byte other than 0 and 1 (R26, R30: one bit each). -/
  | badFlag (b : Byte)
  /-- BROADCAST without a byte: its operand is a non-empty chunk (R182). -/
  | emptyChunk
  /-- A wire pattern that does not have the frame layout of R80. -/
  | notAFrame
deriving DecidableEq, Repr

end Sys2Proof
end

