-- ==== Sys2Proof/WellFormed.lean ====
section
/-! DEFINITION. Which terms of Instr are operations of the spec. -/

namespace Sys2Proof

/-- The operand of BROADCAST is a non-empty chunk (R182); every other operand's type already holds exactly
its legal values (R88, R91: every field value is legal). What an operation refuses depending on the state
or on its operands (R92, R198) is part of its meaning, not of its form. -/
def Instr.wf : Instr → Bool
  | .crcInit _ => true
  | .crcByte _ => true
  | .crcRead => true
  | .encode _ _ _ => true
  | .tryDecode _ _ => true
  | .configure _ _ _ _ _ _ => true
  | .receive _ _ => true
  | .reserved000 => true
  | .crc32 _ _ => true
  | .addDecoder _ => true
  | .broadcast chunk => !chunk.isEmpty
  | .send _ => true
  | .frame _ _ _ _ => true

end Sys2Proof
end

