-- ==== Sys2Proof/Decode.lean ====
section
/-! DEFINITION. Decoding a request, and the encoder beside it. The first byte of a request is its select.
Bits 2:0 of the selects 0x00 to 0x07 are the operation select `op[2:0]` of 30_encoding.md R89. A request of
the wire pattern FRAME is the frame's own bytes (R80), whose first byte is 0x3A. The selects of the
operations that R88 gives none, and the bytes in which operands follow the select, are the model's
(log 2, DESIGN CHOICE: the spec fixes no serialization; the port binding of D2 is not normative). -/

namespace Sys2Proof

open Sys2Proof.Machine

/-- A natural operand in base 128, least significant digit first, bit 7 of a byte set when more follow
(D29: lengths and offsets are naturals without bound; log 2). -/
def takeNat : List Byte → Except DecodeError (Nat × List Byte)
  | [] => .error .truncated
  | b :: rest =>
    if b.toNat < 128 then .ok (b.toNat, rest)
    else
      match takeNat rest with
      | .ok (n, r) => .ok (b.toNat - 128 + 128 * n, r)
      | .error e => .error e

/-- A 16-bit operand, big-endian. -/
def takeHalf : List Byte → Except DecodeError (Half × List Byte)
  | a :: b :: rest => .ok (BitVec.ofNat 16 (beValue [a, b]), rest)
  | _ => .error .truncated

/-- A 32-bit operand, big-endian. -/
def takeWord : List Byte → Except DecodeError (Word × List Byte)
  | a :: b :: c :: d :: rest => .ok (BitVec.ofNat 32 (beValue [a, b, c, d]), rest)
  | _ => .error .truncated

/-- A one-bit operand in a byte of its own (R26, R30). -/
def takeFlag : List Byte → Except DecodeError (Bool × List Byte)
  | [] => .error .truncated
  | b :: rest => if b = 0 then .ok (false, rest) else if b = 1 then .ok (true, rest) else .error (.badFlag b)

/-- The coding of `CFG.MODE` (D6): FIXED = 0, VARIABLE = 1. -/
def modeOfBit (b : Bool) : Mode := if b then .variableLen else .fixedLen

/-- The inverse of `modeOfBit` (D6). -/
def modeBit : Mode → Bool
  | .fixedLen => false
  | .variableLen => true

/-- Nothing may follow the last operand. -/
def noMore (i : Instr) : List Byte → Except DecodeError Instr
  | [] => .ok i
  | _ :: _ => .error .trailingBytes

/-- Operand of CRC.INIT: `v`, or nothing, which is the default (R97, R111). -/
def decodeCrcInit : List Byte → Except DecodeError Instr
  | [] => .ok (.crcInit Config.crcInit)
  | b :: rest => do
    let (v, r) ← takeWord (b :: rest)
    noMore (.crcInit v) r

/-- Operand of CRC.BYTE: one byte (R112). -/
def decodeCrcByte : List Byte → Except DecodeError Instr
  | [] => .error .truncated
  | b :: rest => noMore (.crcByte b) rest

/-- Operands of ENCODE (R88, R130). -/
def decodeEncode (bs : List Byte) : Except DecodeError Instr := do
  let (addr, r) ← takeNat bs
  let (type, r) ← takeNat r
  .ok (.encode addr type r)

/-- Operands of TRY_DECODE (R88, R132). -/
def decodeTryDecode (bs : List Byte) : Except DecodeError Instr := do
  let (e, w) ← takeNat bs
  .ok (.tryDecode w e)

/-- Operands of CONFIGURE (R88, R150), in the order of the ports of D2: instance, target, type, `L`, mode,
verbose. -/
def decodeConfigure (bs : List Byte) : Except DecodeError Instr := do
  let (d, r) ← takeNat bs
  let (target, r) ← takeHalf r
  let (type, r) ← takeHalf r
  let (len, r) ← takeNat r
  let (mode, r) ← takeFlag r
  let (verbose, r) ← takeFlag r
  noMore (.configure d (modeOfBit mode) len type target verbose) r

/-- Operands of RECEIVE: instance, chunk (R88, R151). -/
def decodeReceive (bs : List Byte) : Except DecodeError Instr := do
  let (d, c) ← takeNat bs
  .ok (.receive d c)

/-- Operands of CRC32 with an explicit initial value (R97). -/
def decodeCrc32 (bs : List Byte) : Except DecodeError Instr := do
  let (v, s) ← takeWord bs
  .ok (.crc32 s v)

/-- Operand of ADD_DECODER (R180). -/
def decodeAddDecoder (bs : List Byte) : Except DecodeError Instr := do
  let (d, r) ← takeNat bs
  noMore (.addDecoder d) r

/-- Operand of BROADCAST: a non-empty chunk (R182). -/
def decodeBroadcast : List Byte → Except DecodeError Instr
  | [] => .error .emptyChunk
  | b :: rest => .ok (.broadcast (b :: rest))

/-- The wire pattern FRAME (R80, R81): at least 11 bytes, marker, CR and LF in place; the other bytes are the
fields. -/
def decodeFrame (f : List Byte) : Except DecodeError Instr :=
  let n := f.length
  if n < Config.overhead then .error .notAFrame
  else if byteAt f 0 ≠ Config.startMarker then .error .notAFrame
  else if byteAt f (n - 2) ≠ Config.cr then .error .notAFrame
  else if byteAt f (n - 1) ≠ Config.lf then .error .notAFrame
  else .ok (.frame (BitVec.ofNat 16 (memRead f 1 2)) (BitVec.ofNat 16 (memRead f 3 2))
    (slice f 5 (n - 6)) (BitVec.ofNat 32 (memRead f (n - 6) 4)))

/-- The decoder: total on any bytes, rejecting by name. -/
def decode : List Byte → Except DecodeError Instr
  | [] => .error .noSelect
  | sel :: ops =>
    match sel.toNat with
    | 0x00 => .ok .reserved000
    | 0x01 => decodeCrcInit ops
    | 0x02 => decodeCrcByte ops
    | 0x03 => noMore .crcRead ops
    | 0x04 => decodeEncode ops
    | 0x05 => decodeTryDecode ops
    | 0x06 => decodeConfigure ops
    | 0x07 => decodeReceive ops
    | 0x08 => .ok (.crc32 ops Config.crcInit)
    | 0x09 => decodeCrc32 ops
    | 0x10 => decodeAddDecoder ops
    | 0x11 => decodeBroadcast ops
    | 0x12 => .ok (.send ops)
    | 0x3A => decodeFrame (sel :: ops)
    | _ => .error (.unknownSelect sel)

/-- The digits of a natural operand; `fuel` bounds their number. -/
def natBytes : Nat → Nat → List Byte
  | 0, n => [BitVec.ofNat 8 n]
  | fuel + 1, n =>
    if n < 128 then [BitVec.ofNat 8 n] else BitVec.ofNat 8 (n % 128 + 128) :: natBytes fuel (n / 128)

/-- A natural operand as `takeNat` reads it. -/
def encodeNat (n : Nat) : List Byte := natBytes n n

/-- A one-bit operand as `takeFlag` reads it. -/
def encodeFlag (b : Bool) : List Byte := if b then [1] else [0]

/-- The bytes of a request. -/
def encode : Instr → List Byte
  | .crcInit v => 0x01 :: be32 v
  | .crcByte b => [0x02, b]
  | .crcRead => [0x03]
  | .encode addr type payload => 0x04 :: (encodeNat addr ++ (encodeNat type ++ payload))
  | .tryDecode window e => 0x05 :: (encodeNat e ++ window)
  | .configure d mode len type target verbose =>
    0x06 :: (encodeNat d ++ (be16 target ++ (be16 type ++ (encodeNat len ++
      (encodeFlag (modeBit mode) ++ encodeFlag verbose)))))
  | .receive d chunk => 0x07 :: (encodeNat d ++ chunk)
  | .reserved000 => [0x00]
  | .crc32 s v => 0x09 :: (be32 v ++ s)
  | .addDecoder d => 0x10 :: encodeNat d
  | .broadcast chunk => 0x11 :: chunk
  | .send bs => 0x12 :: bs
  | .frame address type payload crc => frameBytes address type payload crc

/-- How many bytes the operands of an operation with a select of R89 take at least, when they are zero: the
bytes of zeros that follow the select of a table word (log 24). -/
def operandBytes (op : Nat) : Nat :=
  match op with
  | 1 => 4
  | 2 => 1
  | 4 => 2
  | 5 => 1
  | 6 => 8
  | 7 => 1
  | _ => 0

/-- The first `k` bytes of a number whose byte 0 is its least significant. -/
def leBytes : Nat → Nat → List Byte
  | 0, _ => []
  | k + 1, w => BitVec.ofNat 8 w :: leBytes k (w / 256)

/-- A word of spec/opcode_table.json (bit 0 the least significant bit of the first byte) as a request: its
bytes, then operand bytes of zeros (log 24). -/
def tableRequest (nbits w : Nat) : List Byte :=
  let k := max 1 ((nbits + 7) / 8)
  leBytes k w ++ List.replicate (operandBytes (w % 256) - (k - 1)) 0

/-- The operation the decoder reads from a table word. -/
def decodeTableWord (nbits w : Nat) : Option Instr :=
  match decode (tableRequest nbits w) with
  | .ok i => some i
  | .error _ => none

end Sys2Proof
end

