-- ==== Sys2Proof/Machine/State.lean ====
section
/-! DEFINITION. The state of the block and of its environment (10_state.md), the ways a step can stop, and
the state after reset. -/

namespace Sys2Proof.Machine

/-- A DecodedMessage: the six fields of 10_state.md R22. -/
structure DecodedMessage where
  address : Half
  type : Half
  payload : List Byte
  crcComputed : Word
  crcReceived : Word
  crcCorrect : Bool
deriving DecidableEq, Repr

/-- The four structural checks, the sub-causes of a structural rejection (R195). -/
inductive StructCause where
  | length
  | startMarker
  | cr
  | lf
deriving DecidableEq, Repr

/-- The sub-causes of an address/type mismatch (R195). -/
inductive FilterCause where
  /-- The address differs. -/
  | address
  /-- The address is equal and the type differs. -/
  | type
deriving DecidableEq, Repr

/-- The error classes of R190 and R195, as events of the diagnostic output (R212). That an event of class 1 or 3
always carries its sub-cause is the model's choice, which R191, R195 and R212 leave open (log 15, DESIGN
CHOICE). -/
inductive DiagEvent where
  | structural (cause : StructCause)
  | crcMismatch
  | mismatch (cause : FilterCause)
  /-- Never produced by the block (R194, R195). -/
  | transportFailure
deriving DecidableEq, Repr

/-- The configuration registers of one Stream Decoder (R26 to R30). -/
structure Cfg where
  /-- `CFG.MODE` (R26). -/
  mode : Mode
  /-- `CFG.LEN`, used when FIXED (R27). -/
  len : Nat
  /-- `CFG.TYPE` (R28). -/
  type : Half
  /-- `CFG.TARGET` (R29). -/
  target : Half
  /-- `CFG.VERBOSE` (R30). -/
  verbose : Bool
deriving DecidableEq, Repr

/-- One Stream Decoder instance: its registers and ReceiveBuffer (R20), and two model records. -/
structure Decoder where
  cfg : Cfg
  /-- `CONFIGURED` (R30). -/
  configured : Bool
  /-- `BUF`, front (oldest byte) first (R33). -/
  buf : List Byte
  /-- `OVF`, sticky (R32). -/
  ovf : Bool
  /-- `OUT`: the handler invocations, in order (R36). -/
  out : List DecodedMessage
  /-- The diagnostic output, in order (R212; log 15). -/
  diag : List DiagEvent
deriving DecidableEq, Repr

/-- A Stream Decoder after reset (R39). `CFG.*` has no value there and nothing reads it while
`CONFIGURED = 0`; the zeros are the model's (log 4, DESIGN CHOICE, unsafe). -/
def Decoder.reset : Decoder :=
  { cfg := { mode := .fixedLen, len := 0, type := 0, target := 0, verbose := false }
    configured := false
    buf := []
    ovf := false
    out := []
    diag := [] }

/-- `BUF_LEN`, read-only status (R31). -/
def Decoder.bufLen (d : Decoder) : Nat := d.buf.length

/-- A value an operation returns to its caller (R23, R36, R240; log 23). -/
inductive Result where
  /-- CRC.READ (R113). -/
  | word (v : Word)
  /-- ENCODE (R130). -/
  | frame (f : List Byte)
  /-- TRY_DECODE (R132). -/
  | decoded (m : Option DecodedMessage)
deriving DecidableEq, Repr

/-- The reader task of the Dispatcher (R183). -/
inductive Reader where
  | running
  /-- Cancelled from the controlling context (R243). -/
  | shutDown
  /-- Ended by a transport failure (R186). -/
  | failed
deriving DecidableEq, Repr

/-- What the outside world does to the machine in one step. -/
inductive Act where
  /-- A request for an operation, in the bytes of Decode.lean. -/
  | request (bytes : List Byte)
  /-- The reset signal of the whole block (R220). -/
  | reset
  /-- The reset of one Stream Decoder (R38, R220, R224; log 20). -/
  | resetDecoder (d : Nat)
  /-- An empty read of the transport, a timeout (R242). -/
  | emptyRead
  /-- The transport fails (R186, R194). -/
  | transportFailure
  /-- The reader task is cancelled (R243). -/
  | shutdown
deriving DecidableEq, Repr

/-- A RECEIVE in progress (R205, R227; log 17). -/
structure InProgress where
  /-- The decoder whose RECEIVE it is. -/
  decoder : Nat
  /-- The decoders that the BROADCAST it is part of feeds; none when the RECEIVE was made directly (R182). -/
  feeds : List Nat
deriving DecidableEq, Repr

/-- One pending input. `during = some p` marks an act made while the RECEIVE `p` is in progress: from its handler
(R205) or by another task (R227) (log 17). -/
structure Input where
  during : Option InProgress
  act : Act
deriving DecidableEq, Repr

/-- The state: the block's registers, the Stream Decoder instances, the environment of 43_dispatcher.md, and
the model's own records. -/
structure State where
  /-- `BUF_CAP`, `MAX_PAYLOAD` and `N_DEC` (R8): no step changes them (log 6). -/
  params : Params
  /-- `ACC` (R21): one for the system (R38, D26). -/
  acc : Word
  /-- The instances that differ from a reset one, by number, numbers strictly rising (log 3). -/
  insts : List (Nat × Decoder)
  /-- The values returned so far (R36; log 23). -/
  results : List Result
  /-- `DECODERS`, in order of registration (R180). -/
  decoders : List Nat
  /-- What SEND wrote to the transport, one entry a write (R184). -/
  sent : List (List Byte)
  /-- The reader task (R183, R186, R243; log 19). -/
  reader : Reader
  /-- Inputs not yet taken, the next one first (log 21). -/
  inputs : List Input
deriving DecidableEq, Repr

/-- The reasons a step stops with a fault: there is none. The one fault of R11 and R197 is overflow, after which
the machine goes on with `OVF = 1`: a next state (R166; log 14). -/
inductive Fault where
deriving DecidableEq, Repr

/-- The reasons a step is refused (R11, R198): the spec gives the request no meaning. -/
inductive Refusal where
  /-- An operation that has no meaning in the model yet. Safe. -/
  | notModelled (mnemonic : String)
  /-- The request is no operation: the decoder rejects it. Raised by the step. Safe. -/
  | badRequest (e : DecodeError)
  /-- `op = 000` (R92). Raised by RESERVED_000. Safe. -/
  | reservedSelect
  /-- TRY_DECODE with `len(W) = e < 10` (R133(c)). Raised by TRY_DECODE. Safe. -/
  | windowTooShort
  /-- A second CONFIGURE (R30, R150). Raised by CONFIGURE. Safe. -/
  | alreadyConfigured
  /-- CONFIGURE with FIXED and `L < 10` or `L > BUF_CAP` (R150). Raised by CONFIGURE. Safe. -/
  | badLength
  /-- RECEIVE with `CONFIGURED = 0` (R151, R223). Raised by RECEIVE, BROADCAST and FRAME. Safe. -/
  | notConfigured
  /-- ENCODE with a payload longer than `MAX_PAYLOAD` (R130). Raised by ENCODE. Safe. -/
  | payloadTooLong
  /-- RECEIVE, CONFIGURE or reset of a decoder whose RECEIVE is in progress (R198, R205, R227). Raised by the
  step. Safe. -/
  | decoderBusy
  /-- CONFIGURE, RECEIVE, ADD_DECODER or reset of an instance that `N_DEC` excludes (R8). Raised by these. Safe
  (log 3). -/
  | noSuchDecoder
  /-- BROADCAST after the reader task has ended: "After it no further BROADCAST occurs" (R186). Raised by
  BROADCAST. Safe: the spec has no such run (log 19). -/
  | readerStopped
deriving DecidableEq, Repr

/-- The state after reset (R39, R220) of the machine with the given parameters (R8). -/
def State.resetWith (p : Params) : State :=
  { params := p
    acc := Config.crcInit
    insts := []
    results := []
    decoders := []
    sent := []
    reader := .running
    inputs := [] }

/-- The state after reset, with the parameters at their reference values (R8; log 6). -/
def State.reset : State := State.resetWith Config.reference

end Sys2Proof.Machine
end

