-- ==== Sys2Proof/Machine/Ops.lean ====
section
/-! DEFINITION. The named operations over the state: the CRC function, the buffer primitives, the table of
instances, the fault OVF (the block's one exception), the handler invocation and the diagnostics. -/

namespace Sys2Proof.Machine

/-! ### The CRC (40_crc.md) -/

/-- One of the 8 rounds of R112: the top bit tested is the one before the shift. -/
def crcRound (a : Word) : Word :=
  if a.getLsbD 31 then (a <<< 1) ^^^ Config.crcPoly else a <<< 1

/-- `k` rounds. -/
def crcRounds : Nat → Word → Word
  | 0, a => a
  | k + 1, a => crcRounds k (crcRound a)

/-- The body of R112: the byte is XORed into the top 8 bits (R51), then 8 rounds. -/
def crcStep (a : Word) (b : Byte) : Word := crcRounds 8 (a ^^^ (b.setWidth 32 <<< 24))

/-- `CRC32(S, v)` as a pure function (R114): the bytes in index order (R52). -/
def crc32 (s : List Byte) (v : Word) : Word := s.foldl crcStep v

/-! ### The table of Stream Decoder instances (log 3) -/

/-- The instance numbered `n`; one not listed is as after reset. -/
def instGet : List (Nat × Decoder) → Nat → Decoder
  | [], _ => Decoder.reset
  | (k, d) :: rest, n => if k = n then d else instGet rest n

/-- The table with the entry `(n, d)`, numbers strictly rising. -/
def instInsert : List (Nat × Decoder) → Nat → Decoder → List (Nat × Decoder)
  | [], n, d => [(n, d)]
  | (k, e) :: rest, n, d =>
    if n < k then (n, d) :: (k, e) :: rest
    else if n = k then (n, d) :: rest
    else (k, e) :: instInsert rest n d

/-- The table with instance `n` equal to `d`; an instance that is as after reset is not listed. -/
def instSet (insts : List (Nat × Decoder)) (n : Nat) (d : Decoder) : List (Nat × Decoder) :=
  if d = Decoder.reset then insts.filter (fun p => p.1 != n) else instInsert insts n d

/-- The canonical form of the table. -/
def instWf : List (Nat × Decoder) → Bool
  | [] => true
  | (k, d) :: rest => decide (d ≠ Decoder.reset) && rest.all (fun p => decide (k < p.1)) && instWf rest

/-- Whether the system has an instance numbered `n`: there are `N_DEC` of them, numbered from 0 (R8; log 3). -/
def State.hasInst (s : State) (n : Nat) : Bool :=
  match s.params.nDec with
  | none => true
  | some k => decide (n < k)

/-- Instance `n` of the state. -/
def State.inst (s : State) (n : Nat) : Decoder := instGet s.insts n

/-- The state with instance `n` equal to `d`. -/
def State.setInst (s : State) (n : Nat) (d : Decoder) : State := { s with insts := instSet s.insts n d }

/-- The state with `ACC` equal to `v` (R21). -/
def State.setAcc (s : State) (v : Word) : State := { s with acc := v }

/-- The state after an operation has returned `r` (R36). -/
def State.giveResult (s : State) (r : Result) : State := { s with results := s.results ++ [r] }

/-! ### The ReceiveBuffer (20_memory.md R58) -/

/-- Whether a length is within a capacity, `none` being infinite (R8, R31). -/
def fits (cap : Option Nat) (n : Nat) : Bool :=
  match cap with
  | none => true
  | some c => decide (n ≤ c)

/-- `append(C)` (R58a, R152). -/
def Decoder.append (d : Decoder) (c : List Byte) : Decoder := { d with buf := d.buf ++ c }

/-- `drop_front(k)` (R58b). -/
def Decoder.dropFront (d : Decoder) (k : Nat) : Decoder := { d with buf := d.buf.drop k }

/-- `slice(off, n)` (R58c): the window `BUF[off : off+n)`. -/
def Decoder.window (d : Decoder) (off n : Nat) : List Byte := slice d.buf off (off + n)

/-! ### The fault: overflow (R166, R197) -/

/-- Taking the fault: `OVF <- 1`, and nothing else of the decoder changes; the rest of RECEIVE is not run. -/
def Decoder.raiseOverflow (d : Decoder) : Decoder := { d with ovf := true }

/-! ### Handler invocation, the block's "trap entry" (R202 to R204) -/

/-- `emit Handler(m)`: `m` is appended to `OUT` and nothing of the block changes. The return restores nothing
and RECEIVE goes on (R204), so the invocation and its return are this one step (log 17). -/
def Decoder.emit (d : Decoder) (m : DecodedMessage) : Decoder := { d with out := d.out ++ [m] }

/-! ### Diagnostics (R195, R212) -/

/-- The class code of an event (R195). -/
def DiagEvent.code : DiagEvent → Nat
  | .structural _ => 1
  | .crcMismatch => 2
  | .mismatch _ => 3
  | .transportFailure => 4

/-- The sub-cause number of an event, where it carries one (R195). -/
def DiagEvent.sub : DiagEvent → Option Nat
  | .structural .length => some 1
  | .structural .startMarker => some 2
  | .structural .cr => some 3
  | .structural .lf => some 4
  | .crcMismatch => none
  | .mismatch .address => some 1
  | .mismatch .type => some 2
  | .transportFailure => none

/-- Events on the diagnostic output: only when `CFG.VERBOSE = 1` (R30, R212). -/
def Decoder.report (d : Decoder) (es : List DiagEvent) : Decoder :=
  if d.cfg.verbose then { d with diag := d.diag ++ es } else d

/-- The well-formedness of the block's memory: every `BUF` is within `BUF_CAP` (R31), and the table of
instances is in canonical form. -/
def Memory.wf (s : State) : Bool :=
  instWf s.insts && s.insts.all (fun p => fits s.params.bufCap p.2.bufLen)

end Sys2Proof.Machine
end

