-- ==== Sys2Proof/Machine/Crc.lean ====
section
/-! DEFINITION. The CRC Engine: CRC.INIT, CRC.BYTE, CRC.READ and the pseudo-operation CRC32 (40_crc.md). It
touches no state but `ACC` (R117). -/

namespace Sys2Proof.Machine

open Host (Outcome)

/-- `CRC.INIT v` (R111). -/
def execCrcInit (v : Word) (s : State) : Outcome State Fault Refusal := .next (s.setAcc v)

/-- `CRC.BYTE b` (R112). -/
def execCrcByte (b : Byte) (s : State) : Outcome State Fault Refusal := .next (s.setAcc (crcStep s.acc b))

/-- `CRC.READ` (R113): `ACC` is returned and not modified. -/
def execCrcRead (s : State) : Outcome State Fault Refusal := .next (s.giveResult (.word s.acc))

/-- `CRC32 S, v`: the expansion CRC.INIT, CRC.BYTE for each byte, CRC.READ on the architectural accumulator
(R97, R114; log 13). -/
def execCrc32 (bytes : List Byte) (v : Word) (s : State) : Outcome State Fault Refusal :=
  let t := s.setAcc (crc32 bytes v)
  .next (t.giveResult (.word t.acc))

/-! The two equivalent forms of R115. -/

/-- One bit of the bit-serial form: `fb <- a[31] ^ bit`, shift, XOR when `fb = 1` (R115). -/
def crcBit (a : Word) (bit : Bool) : Word :=
  if a.getLsbD 31 ^^ bit then (a <<< 1) ^^^ Config.crcPoly else a <<< 1

/-- The bit-serial form of a byte: bits 7 down to 0 (R115). -/
def crcStepSerial (a : Word) (b : Byte) : Word :=
  [7, 6, 5, 4, 3, 2, 1, 0].foldl (fun a i => crcBit a (b.getLsbD i)) a

/-- Entry `t` of the 256-entry table of R115: `step(0, t)`. -/
def crcTable (t : Byte) : Word := crcStep 0 t

/-- The table-driven form of R115: `(a << 8) ^ T[a[31:24] ^ b]`. -/
def crcStepTable (a : Word) (b : Byte) : Word := (a <<< 8) ^^^ crcTable (a.extractLsb' 24 8 ^^^ b)

end Sys2Proof.Machine
end

