-- ==== Sys2Proof/Machine/Operands.lean ====
section
/-! DEFINITION. The fields of a window and of a frame, assembled and written (30_encoding.md R80, R84 to R87).
A window is at offsets from its own first byte (R60). -/

namespace Sys2Proof.Machine

/-- `address = MemRead(W, 1, 2)` (R84). -/
def fieldAddress (w : List Byte) : Half := BitVec.ofNat 16 (memRead w 1 2)

/-- `type = MemRead(W, 3, 2)` (R85). -/
def fieldType (w : List Byte) : Half := BitVec.ofNat 16 (memRead w 3 2)

/-- `payload = W[5 : n-6)`; empty when `n = 10` (R87). -/
def fieldPayload (w : List Byte) : List Byte := slice w Config.headerLen (w.length - Config.trailerLen)

/-- `crc_received = MemRead(W, n-6, 4)` (R86). -/
def fieldCrc (w : List Byte) : Word := BitVec.ofNat 32 (memRead w (w.length - Config.trailerLen) Config.crcLen)

/-- `MemWrite(F, n-6, 4, c)` (R86). -/
def withCrcField (w : List Byte) (c : Word) : List Byte :=
  memWrite w (w.length - Config.trailerLen) Config.crcLen c.toNat

/-- The working copy of R35(a): the CRC field zeroed (R132). -/
def crcFieldZeroed (w : List Byte) : List Byte := withCrcField w 0

/-- The operand reduced to its field: `addr mod 65536`, `type mod 65536` (R84, R85). -/
def reduceHalf (v : Nat) : Half := BitVec.ofNat 16 v

/-- `hdr` of R130. -/
def frameHeader (a t : Half) : List Byte :=
  [Config.startMarker, a.extractLsb' 8 8, a.extractLsb' 0 8, t.extractLsb' 8 8, t.extractLsb' 0 8]

/-- `trailer` of R130: the CRC bytes zero, CR, LF. -/
def frameTrailer : List Byte := [0x00, 0x00, 0x00, 0x00, Config.cr, Config.lf]

end Sys2Proof.Machine
end

