-- ==== Sys2Proof/Machine/Flags.lean ====
section
/-! DEFINITION. The two result flags of TRY_DECODE, `struct_ok` and `crc_correct` (10_state.md R25). Neither
is stored. -/

namespace Sys2Proof.Machine

/-- The first structural check that fails, in the order length, start marker, CR, LF (R132, R200). -/
def structFailure (w : List Byte) (e : Nat) : Option StructCause :=
  if w.length ≠ e then some .length
  else if byteAt w 0 ≠ Config.startMarker then some .startMarker
  else if byteAt w (w.length - 2) ≠ Config.cr then some .cr
  else if byteAt w (w.length - 1) ≠ Config.lf then some .lf
  else none

/-- `struct_ok` (R25): all four structural checks passed. -/
def structOk (w : List Byte) (e : Nat) : Bool := (structFailure w e).isNone

/-- `crc_computed` (R132): over all bytes of the working copy, on a private accumulator that starts at
`0xFFFFFFFF` (R35(b), R137). -/
def crcComputed (w : List Byte) : Word := crc32 (crcFieldZeroed w) Config.crcInit

/-- `crc_correct` (R22, R25): `crc_computed = crc_received`. -/
def crcCorrect (w : List Byte) : Bool := decide (crcComputed w = fieldCrc w)

end Sys2Proof.Machine
end

