-- ==== Sys2Proof/Machine/Codec.lean ====
section
/-! DEFINITION. The Frame Codec: ENCODE and TRY_DECODE (41_frame_codec.md). Both are pure: they return a value
and read and write no register (R136). -/

namespace Sys2Proof.Machine

open Host (Outcome)

/-- The frame that ENCODE returns (R130). -/
def encodeFrame (addr type : Nat) (payload : List Byte) : List Byte :=
  let f := frameHeader (reduceHalf addr) (reduceHalf type) ++ payload ++ frameTrailer
  withCrcField f (crc32 f Config.crcInit)

/-- The message of a window that has passed the structural checks (R132). The fields are taken from the
window, not from the working copy (D5). -/
def decodeWindow (w : List Byte) : DecodedMessage :=
  { address := fieldAddress w
    type := fieldType w
    payload := fieldPayload w
    crcComputed := crcComputed w
    crcReceived := fieldCrc w
    crcCorrect := crcCorrect w }

/-- TRY_DECODE as a function (R132): `None` on a structural rejection, else the message, whatever its CRC. -/
def tryDecode (w : List Byte) (e : Nat) : Option DecodedMessage :=
  if structOk w e then some (decodeWindow w) else none

/-- `ENCODE addr, type, payload` (R130): refused only beyond a finite `MAX_PAYLOAD`. -/
def execEncode (addr type : Nat) (payload : List Byte) (s : State) : Outcome State Fault Refusal :=
  if fits s.params.maxPayload payload.length then
    .next (s.giveResult (.frame (encodeFrame addr type payload)))
  else .refused .payloadTooLong

/-- `TRY_DECODE W, e` (R132); refused when `len(W) = e < 10` (R133(c)). -/
def execTryDecode (window : List Byte) (expected : Nat) (s : State) : Outcome State Fault Refusal :=
  if window.length = expected ∧ window.length < Config.minLen then .refused .windowTooShort
  else .next (s.giveResult (.decoded (tryDecode window expected)))

end Sys2Proof.Machine
end

