-- ==== Sys2Proof/Machine/StreamDecoder.lean ====
section
/-! DEFINITION. The Stream Decoder: CONFIGURE and RECEIVE with its five steps (42_stream_decoder.md). The
steps act on one Decoder and on nothing else (R38). The loops take a bound on their number of passes, which
the length of `BUF` always is (R159). -/

namespace Sys2Proof.Machine

open Host (Outcome)

/-! ### Step 5, DISPATCH (R156) -/

/-- The class 3 event of a message, if any (R193, R195): address before type (R201). After a CRC mismatch of
the same window it is a free value whether it is reported (log 16). -/
def mismatchEvents (cfg : Cfg) (m : DecodedMessage) : List DiagEvent :=
  if m.crcCorrect || Config.reportsDropAfterBadCrc then
    (if m.address ≠ cfg.target then [.mismatch .address]
     else if m.type ≠ cfg.type then [.mismatch .type]
     else [])
  else []

/-- DISPATCH(m): the handler is invoked when address and type match; the filter does not read `crc_correct`
(R156). -/
def Decoder.dispatch (d : Decoder) (m : DecodedMessage) : Decoder :=
  if m.address = d.cfg.target ∧ m.type = d.cfg.type then d.emit m
  else d.report (mismatchEvents d.cfg m)

/-! ### Step 2, RESYNC (R153) -/

/-- RESYNC: leading bytes are dropped until the first is the start marker or the buffer is empty. -/
def Decoder.resync (d : Decoder) : Decoder :=
  { d with buf := d.buf.dropWhile (fun b => b != Config.startMarker) }

/-! ### Step 3, SCAN_FIXED (R154) -/

/-- The class 1 event of a rejected window (R191, R195). -/
def rejectionEvents (w : List Byte) : List DiagEvent :=
  match structFailure w w.length with
  | some c => [.structural c]
  | none => []

/-- The class 2 event of a structurally valid window, if any (R192). -/
def crcEvents (m : DecodedMessage) : List DiagEvent := if m.crcCorrect then [] else [.crcMismatch]

/-- One pass of SCAN_FIXED on the first `L` bytes: a structurally valid window is dispatched, whatever its
CRC, and consumed; otherwise one byte is removed (R154, R164). -/
def Decoder.fixedPass (d : Decoder) : Decoder :=
  match tryDecode (d.window 0 d.cfg.len) d.cfg.len with
  | some m => ((d.report (crcEvents m)).dispatch m).dropFront d.cfg.len
  | none => (d.report (rejectionEvents (d.window 0 d.cfg.len))).dropFront 1

/-- SCAN_FIXED, at most `fuel` passes. -/
def Decoder.scanFixedUpTo : Nat → Decoder → Decoder
  | 0, d => d
  | fuel + 1, d => if d.bufLen < d.cfg.len then d else scanFixedUpTo fuel d.fixedPass

/-- SCAN_FIXED (R154): each pass removes at least one byte (R159). -/
def Decoder.scanFixed (d : Decoder) : Decoder := Decoder.scanFixedUpTo d.bufLen d

/-! ### Step 4, SCAN_VAR (R155, R157) -/

/-- The candidates (start offset, length) of a buffer of `bufLen` bytes in the order of R155: earliest offset
first, then shortest length. -/
def candidates (minLen bufLen : Nat) : List (Nat × Nat) :=
  (List.range bufLen).flatMap fun off =>
    (List.range' minLen (bufLen - off + 1 - minLen)).map fun n => (off, n)

/-- A candidate is accepted when its structural checks pass and its CRC is correct (R155). -/
def accepted (buf : List Byte) (c : Nat × Nat) : Option DecodedMessage :=
  match tryDecode (slice buf c.1 (c.1 + c.2)) c.2 with
  | some m => if m.crcCorrect then some m else none
  | none => none

/-- One search (R155): the first accepted candidate and its message. -/
def search (minLen : Nat) (buf : List Byte) : Option ((Nat × Nat) × DecodedMessage) :=
  (candidates minLen buf.length).findSome? fun c => (accepted buf c).map fun m => (c, m)

/-- The event of a candidate that is passed over (R191, R192). -/
def passedOverEvents (buf : List Byte) (c : Nat × Nat) : List DiagEvent :=
  match tryDecode (slice buf c.1 (c.1 + c.2)) c.2 with
  | some m => crcEvents m
  | none => rejectionEvents (slice buf c.1 (c.1 + c.2))

/-- The events of one search: one for each candidate before the accepted one (R212). -/
def searchEvents (minLen : Nat) (buf : List Byte) : List DiagEvent :=
  ((candidates minLen buf.length).takeWhile fun c => (accepted buf c).isNone).flatMap (passedOverEvents buf)

/-- SCAN_VAR, at most `fuel` searches: each acceptance is dispatched and everything through its end dropped,
then the search starts again (R155, R157). -/
def Decoder.scanVarUpTo (minLen : Nat) : Nat → Decoder → Decoder
  | 0, d => d
  | fuel + 1, d =>
    if d.bufLen < minLen then d
    else
      match search minLen d.buf with
      | none => d.report (searchEvents minLen d.buf)
      | some ((off, n), m) =>
        scanVarUpTo minLen fuel
          (((d.report (searchEvents minLen d.buf)).dispatch m).dropFront (off + n))

/-- SCAN_VAR (R155): each acceptance removes at least `MIN_LEN` bytes (R159). -/
def Decoder.scanVar (minLen : Nat) (d : Decoder) : Decoder := Decoder.scanVarUpTo minLen d.bufLen d

/-- Steps 3 and 4: the scan of the configured mode (R151). -/
def Decoder.scan (d : Decoder) : Decoder :=
  match d.cfg.mode with
  | .fixedLen => d.scanFixed
  | .variableLen => d.scanVar Config.minLen

/-! ### RECEIVE (R151) -/

/-- RECEIVE on a configured decoder with capacity `cap`: nothing when `OVF = 1`; the fault when the chunk does
not fit (R166); else APPEND, RESYNC and the scan (R151 to R155). -/
def Decoder.receive (cap : Option Nat) (c : List Byte) (d : Decoder) : Decoder :=
  if d.ovf then d
  else if fits cap (d.bufLen + c.length) then ((d.append c).resync).scan
  else d.raiseOverflow

/-- `RECEIVE C` at instance `d` (R151): refused before CONFIGURE (R223). -/
def execReceive (d : Nat) (chunk : List Byte) (s : State) : Outcome State Fault Refusal :=
  if !s.hasInst d then .refused .noSuchDecoder
  else if (s.inst d).configured then .next (s.setInst d ((s.inst d).receive s.params.bufCap chunk))
  else .refused .notConfigured

/-! ### CONFIGURE (R150) -/

/-- The lengths CONFIGURE accepts: any when VARIABLE, else `10 <= L <= BUF_CAP` (R27, R150). -/
def legalLength (cap : Option Nat) (mode : Mode) (len : Nat) : Bool :=
  match mode with
  | .variableLen => true
  | .fixedLen => decide (Config.minLen ≤ len) && fits cap len

/-- `CONFIGURE mode, L, type, target, verbose` at instance `d` (R150). -/
def execConfigure (d : Nat) (mode : Mode) (len : Nat) (type target : Half) (verbose : Bool) (s : State) :
    Outcome State Fault Refusal :=
  if !s.hasInst d then .refused .noSuchDecoder
  else if (s.inst d).configured then .refused .alreadyConfigured
  else if legalLength s.params.bufCap mode len then
    .next (s.setInst d { s.inst d with
      cfg := { mode := mode, len := len, type := type, target := target, verbose := verbose }
      configured := true })
  else .refused .badLength

end Sys2Proof.Machine
end

