-- ==== Sys2Proof/Machine/Dispatcher.lean ====
section
/-! DEFINITION. The environment: ADD_DECODER, BROADCAST, SEND (43_dispatcher.md), a frame on the wire (R80), the
reserved select (R92), and the reset signals (70_reset_and_hazards.md R220). -/

namespace Sys2Proof.Machine

open Host (Outcome)

/-- `op = 000` selects no operation and is refused (R92). -/
def execReserved000 (_s : State) : Outcome State Fault Refusal := .refused .reservedSelect

/-- `ADD_DECODER d`: `DECODERS <- DECODERS ++ [d]` (R180; log 9). -/
def execAddDecoder (d : Nat) (s : State) : Outcome State Fault Refusal :=
  if s.hasInst d then .next { s with decoders := s.decoders ++ [d] } else .refused .noSuchDecoder

/-- RECEIVE of one chunk by each decoder of a list in turn, the whole chunk each time (R182; log 8). -/
def receiveEach (chunk : List Byte) (ds : List Nat) (s : State) : State :=
  ds.foldl (fun t d => t.setInst d ((t.inst d).receive s.params.bufCap chunk)) s

/-- A chunk read from the transport is forwarded to every registered decoder (R182). An empty read reaches no
decoder (R242). A registered decoder that is not configured refuses its RECEIVE, and with it the request
(R151; log 10). -/
def forwardChunk (chunk : List Byte) (s : State) : Outcome State Fault Refusal :=
  if chunk.isEmpty then .next s
  else if s.decoders.all (fun d => (s.inst d).configured) then .next (receiveEach chunk s.decoders s)
  else .refused .notConfigured

/-- `BROADCAST C` (R182): made by the reader task, of which there is none after a shutdown or a transport
failure: then it is refused, the spec giving it no meaning (R11, R183, R186; log 19). -/
def execBroadcast (chunk : List Byte) (s : State) : Outcome State Fault Refusal :=
  if s.reader = .running then forwardChunk chunk s else .refused .readerStopped

/-- `SEND B`: `transport.write(B)`, `B` unchanged and unchecked (R184; log 25). -/
def execSend (bytes : List Byte) (s : State) : Outcome State Fault Refusal :=
  .next { s with sent := s.sent ++ [bytes] }

/-- A frame arriving on the wire, read from the transport as one chunk (R2 "Data flow", R183; log 12). With no
reader task nobody reads it (R186). -/
def execFrame (address type : Half) (payload : List Byte) (crc : Word) (s : State) :
    Outcome State Fault Refusal :=
  if s.reader = .running then forwardChunk (frameBytes address type payload crc) s else .next s

/-! ### Reset and the other events from outside -/

/-- Reset of the whole block (R39, R220): `ACC`, every instance, and the records of what it has shown. The
environment, the parameters and the pending inputs are not the block's (log 20). -/
def State.resetBlock (s : State) : State := { s with acc := Config.crcInit, insts := [], results := [] }

/-- Reset of one Stream Decoder: its own registers only, `ACC` being the CRC Engine's (R38, R39; log 20). -/
def State.resetInst (s : State) (d : Nat) : State := s.setInst d Decoder.reset

/-- Whether decoder `e` may not be given a RECEIVE while `p` is in progress: it is the decoder of `p` (R205, R227),
or the BROADCAST that `p` is part of feeds it. R205 says the latter of a handler; that it goes for another task too,
for which R227 would let a decoder other than that of `p` run, is the model's choice (log 18, DESIGN CHOICE): a
mark does not say who made the request. -/
def InProgress.busy (p : InProgress) (e : Nat) : Bool := decide (e = p.decoder) || decide (e ∈ p.feeds)

/-- Whether an operation made during the RECEIVE `p` would RECEIVE into a busy decoder, or CONFIGURE the decoder
of `p` (R198, R205, R227). The CRC Engine, ENCODE, TRY_DECODE and SEND are always allowed (R205). That
ADD_DECODER is allowed too is the model's choice, which R205 and D12 leave open: it is taken after the RECEIVE,
and the added decoder gets no part of the chunk in progress (log 18, DESIGN CHOICE). A frame that arrives
meanwhile waits in the transport until the RECEIVE is over (R182; log 18). -/
def State.blocksInstr (s : State) (p : InProgress) : Instr → Bool
  | .crcInit _ => false
  | .crcByte _ => false
  | .crcRead => false
  | .encode _ _ _ => false
  | .tryDecode _ _ => false
  | .configure e _ _ _ _ _ => decide (e = p.decoder)
  | .receive e _ => p.busy e
  | .reserved000 => false
  | .crc32 _ _ => false
  | .addDecoder _ => false
  | .broadcast _ => s.decoders.any p.busy
  | .send _ => false
  | .frame _ _ _ _ => false

end Sys2Proof.Machine
end

