-- ==== Sys2Proof/Machine/Dispatch.lean ====
section
/-! DEFINITION. One arm per operation: each calls its meaning. -/

namespace Sys2Proof.Machine

def exec (i : Instr) (s : State) : Host.Outcome State Fault Refusal :=
  match i with
  -- the CRC Engine
  | .crcInit v => Sys2Proof.Machine.execCrcInit v s
  | .crcByte b => Sys2Proof.Machine.execCrcByte b s
  | .crcRead => Sys2Proof.Machine.execCrcRead s
  | .crc32 bytes v => Sys2Proof.Machine.execCrc32 bytes v s
  -- the Frame Codec
  | .encode addr type payload => Sys2Proof.Machine.execEncode addr type payload s
  | .tryDecode window expected => Sys2Proof.Machine.execTryDecode window expected s
  -- the Stream Decoder
  | .configure d mode len type target verbose => Sys2Proof.Machine.execConfigure d mode len type target verbose s
  | .receive d chunk => Sys2Proof.Machine.execReceive d chunk s
  -- the reserved select
  | .reserved000 => Sys2Proof.Machine.execReserved000 s
  -- the environment and the wire
  | .addDecoder d => Sys2Proof.Machine.execAddDecoder d s
  | .broadcast chunk => Sys2Proof.Machine.execBroadcast chunk s
  | .send bytes => Sys2Proof.Machine.execSend bytes s
  | .frame address type payload crc => Sys2Proof.Machine.execFrame address type payload crc s

end Sys2Proof.Machine
end

