-- ==== Sys2Proof/Machine/Inputs.lean ====
section
/-! DEFINITION. Taking one pending input: what each act of the outside world does (log 17, log 20, log 21). -/

namespace Sys2Proof.Machine

open Host (Outcome)

/-- A request: decoded, then run. -/
def runRequest (bytes : List Byte) (s : State) : Outcome State Fault Refusal :=
  match decode bytes with
  | .ok i => exec i s
  | .error e => .refused (.badRequest e)

/-- What an act does. An empty read reaches no decoder (R242); the end of the reader task leaves every decoder
as it is (R186, R243), and once ended it stays so. -/
def runAct (a : Act) (s : State) : Outcome State Fault Refusal :=
  match a with
  | .request bytes => runRequest bytes s
  | .reset => .next s.resetBlock
  | .resetDecoder d => if s.hasInst d then .next (s.resetInst d) else .refused .noSuchDecoder
  | .emptyRead => .next s
  | .transportFailure => .next (if s.reader = .running then { s with reader := .failed } else s)
  | .shutdown => .next (if s.reader = .running then { s with reader := .shutDown } else s)

/-- Whether an act made during the RECEIVE `p` is refused: R205 and R227 for operations; a reset of its decoder,
or of the whole block, in the middle of the operation is given no meaning (R205, R220), nor is one of another
decoder that the BROADCAST in progress feeds, whose turn may be over or not (R182; log 18). -/
def State.blocksAct (s : State) (p : InProgress) (a : Act) : Bool :=
  match a with
  | .request bytes =>
    match decode bytes with
    | .ok i => s.blocksInstr p i
    | .error _ => false
  | .reset => true
  | .resetDecoder e => p.busy e
  | .emptyRead => false
  | .transportFailure => false
  | .shutdown => false

/-- Taking one input. -/
def runInput (x : Input) (s : State) : Outcome State Fault Refusal :=
  match x.during with
  | none => runAct x.act s
  | some p => if s.blocksAct p x.act then .refused .decoderBusy else runAct x.act s

end Sys2Proof.Machine
end

