-- ==== Sys2Proof/Machine/Step.lean ====
section
/-! DEFINITION. One step: the next pending input is taken; with none pending the machine keeps its state (R213,
R240). -/

namespace Sys2Proof.Machine

/-- One step of the machine. -/
def step (s : State) : Host.Outcome State Fault Refusal :=
  match s.inputs with
  | [] => .next s
  | x :: rest => runInput x { s with inputs := rest }

/-- The machine with the given parameters (R8: "the model takes each as an argument"). `Sys2Proof.core` is the one
with the reference values. -/
def coreWith (p : Params) : Host.Core :=
  { State := State
    Fault := Fault
    Refusal := Refusal
    step := step
    reset := State.resetWith p }

/-- The state with the request of an opcode-table word as its next input (log 21, log 24). -/
def State.withFetchWord (s : State) (nbits w : Nat) : State :=
  { s with inputs := { during := none, act := .request (tableRequest nbits w) } :: s.inputs }

end Sys2Proof.Machine
end

