-- ==== Sys2Proof/Safety.lean ====
section
/-! DEFINITION. What counts as a safe run, and the invariant of the machine. -/

namespace Sys2Proof.Machine

/-- No decoder has overflowed: the premise `OVF = 0` of every claim about the source's behaviour (R166). -/
def State.safe (s : State) : Bool := s.insts.all fun p => !p.2.ovf

/-- What R203 says of one invocation of a decoder's handler: address and type are the configured ones, and in
VARIABLE mode the CRC is correct; and `crc_correct` is the comparison of the two CRCs (R22). -/
def messageOk (cfg : Cfg) (m : DecodedMessage) : Bool :=
  decide (m.address = cfg.target) && decide (m.type = cfg.type) &&
    (decide (m.crcCorrect = decide (m.crcComputed = m.crcReceived))) &&
    (match cfg.mode with
     | .fixedLen => true
     | .variableLen => m.crcCorrect)

/-- The invariant of one decoder with capacity `cap`: `BUF_LEN <= BUF_CAP` (R31); an unconfigured decoder has
received nothing (R30, R39); a configured FIXED one has a legal length and a buffer shorter than it (R27,
R160); every invocation is as R203 says; without a finite capacity there is no overflow (R32). -/
def Decoder.ok (cap : Option Nat) (d : Decoder) : Bool :=
  fits cap d.bufLen &&
    (if d.configured then
      legalLength cap d.cfg.mode d.cfg.len &&
        (match d.cfg.mode with
         | .fixedLen => decide (d.bufLen < d.cfg.len)
         | .variableLen => true)
     else decide (d.buf = []) && !d.ovf && decide (d.out = [])) &&
    d.out.all (messageOk d.cfg) && (cap.isSome || !d.ovf)

/-- The registers and the buffer of a decoder without the diagnostics: what R212 says they cannot influence. -/
def Decoder.silent (d : Decoder) : Decoder := { d with cfg := { d.cfg with verbose := false }, diag := [] }

/-- A program: operations one after the other, ending at the first that stops (R240). -/
def execAll : List Instr → State → Host.Outcome State Fault Refusal
  | [], s => .next s
  | i :: rest, s =>
    match exec i s with
    | .next t => execAll rest t
    | .fault r => .fault r
    | .refused r => .refused r

/-- The act the next step takes, if any is pending. -/
def State.nextAct (s : State) : Option Act := s.inputs.head?.map fun x => x.act

/-- The next step resets instance `d`: alone, or with the whole block. -/
def State.resetsNext (s : State) (d : Nat) : Prop :=
  s.nextAct = some .reset ∨ s.nextAct = some (.resetDecoder d)

/-- The operation the next step runs, if it runs one. -/
def State.nextInstr (s : State) : Option Instr :=
  match s.nextAct with
  | some (.request bytes) =>
    match decode bytes with
    | .ok i => some i
    | .error _ => none
  | _ => none

/-- A candidate (offset, length) of the variable-length search that passes the structural checks with a correct
CRC (R155), and its message. -/
def Acceptable (minLen : Nat) (buf : List Byte) (off n : Nat) (m : DecodedMessage) : Prop :=
  off < buf.length ∧ minLen ≤ n ∧ off + n ≤ buf.length ∧
    tryDecode ((buf.drop off).take n) n = some m ∧ m.crcCorrect = true

/-- The invariant of the machine: the table of instances is canonical, every instance in it is one of the `N_DEC`
(R8) and is `ok`, and so are those in DECODERS. -/
def State.ok (s : State) : Bool :=
  instWf s.insts && s.insts.all (fun p => s.hasInst p.1 && p.2.ok s.params.bufCap) && s.decoders.all s.hasInst

end Sys2Proof.Machine
end

