-- ==== Sys2Proof/Certificates/Slice0/Obligations.lean ====
section
/-! DEFINITION. The statements about the model, one definition each. -/

open Sys2Proof Sys2Proof.Machine

/-! ### The CRC Engine -/

/-- R111: CRC.INIT loads `ACC` and changes nothing else; without an operand it is CRC.INIT `0xFFFFFFFF`. -/
def Obligations.CrcInitLoadsAcc : Prop :=
  (∀ (v : Word) (s : State), exec (.crcInit v) s = .next { s with acc := v }) ∧
    decodeCrcInit [] = .ok (.crcInit 0xFFFFFFFF)

/-- R112: CRC.BYTE XORs the byte into the top 8 bits of `ACC`, runs 8 rounds, and changes nothing else. -/
def Obligations.CrcByteRunsEightRounds : Prop :=
  ∀ (b : Byte) (s : State),
    exec (.crcByte b) s =
      .next { s with
        acc := (fun a : Word => if a.getLsbD 31 = false then a <<< 1 else (a <<< 1) ^^^ 0x04C11DB7)^[8]
          (s.acc ^^^ (b.setWidth 32 <<< 24)) }

/-- R113: CRC.READ returns `ACC` unchanged and changes nothing. -/
def Obligations.CrcReadReturnsAcc : Prop :=
  ∀ s : State, exec .crcRead s = .next { s with results := s.results ++ [.word s.acc] }

/-- R97: CRC32 is its expansion, its omitted initial value is `0xFFFFFFFF`, and so is that of CRC.INIT. The
select 0x08 of a CRC32 request without an initial value is the model's (log 2); that CRC32 leaves its result in
`ACC`, as its expansion does, is log 13. -/
def Obligations.Crc32IsItsExpansion : Prop :=
  ∀ (bytes : List Byte) (v : Word) (s : State),
    execAll (.crcInit v :: (bytes.map .crcByte ++ [.crcRead])) s = exec (.crc32 bytes v) s ∧
    exec (.crc32 bytes v) s =
      .next { s with acc := crc32 bytes v, results := s.results ++ [.word (crc32 bytes v)] } ∧
    decode (0x08 :: bytes) = .ok (.crc32 bytes 0xFFFFFFFF) ∧
    decode [0x01] = .ok (.crcInit 0xFFFFFFFF)

/-- 40_crc.md (R115, derived there): the bit-serial form gives the same accumulator. -/
def Obligations.BitSerialCrcAgrees : Prop := ∀ (a : Word) (b : Byte), crcStepSerial a b = crcStep a b

/-- 40_crc.md (R115, derived there): the table-driven form gives the same accumulator. -/
def Obligations.TableDrivenCrcAgrees : Prop := ∀ (a : Word) (b : Byte), crcStepTable a b = crcStep a b

/-- 40_crc.md (R116(b), (c), derived there): chaining, and linearity over XOR. -/
def Obligations.CrcChainsAndIsLinear : Prop :=
  (∀ (s t : List Byte) (v : Word), crc32 (s ++ t) v = crc32 t (crc32 s v)) ∧
  (∀ (a e : List Byte) (v : Word), a.length = e.length →
    crc32 (List.zipWith (fun x y => x ^^^ y) a e) v = crc32 a v ^^^ crc32 e 0)

/-- 40_crc.md (R116(d), (e), derived there): the residue of a sequence with its CRC appended is zero, and a zero
initial value ignores leading zero bytes. -/
def Obligations.CrcResidueIsZero : Prop :=
  (∀ s : List Byte, crc32 (s ++ be32 (crc32 s 0xFFFFFFFF)) 0xFFFFFFFF = 0) ∧
  (∀ (k : Nat) (s : List Byte), crc32 (List.replicate k 0 ++ s) 0 = crc32 s 0)

/-- R21, with two choices of the model: `ACC` is written only by CRC.INIT, CRC.BYTE (and so by CRC32, their
expansion: log 13) and the reset of the block (that the reset of one decoder leaves it is log 20), and only
CRC.BYTE and CRC.READ see its value: with another value of `ACC` every other operation (CRC32, which begins
by writing it, among them) does the same to everything else. -/
def Obligations.AccBelongsToTheCrcEngine : Prop :=
  (∀ s t : State, step s = .next t → t.acc ≠ s.acc →
    s.nextAct = some .reset ∨ (∃ v, s.nextInstr = some (.crcInit v)) ∨
      (∃ b, s.nextInstr = some (.crcByte b)) ∨ ∃ bytes v, s.nextInstr = some (.crc32 bytes v)) ∧
  (∀ (i : Instr) (s : State) (v : Word), (∀ b, i ≠ .crcByte b) → i ≠ .crcRead →
    (∀ t, exec i s = .next t → ∃ u, exec i { s with acc := v } = .next { t with acc := u }) ∧
    (∀ r, exec i s = .refused r → exec i { s with acc := v } = .refused r))

/-! ### The Frame Codec -/

/-- R50: the fields of a window are assembled big-endian. -/
def Obligations.WindowFieldsAreBigEndian : Prop :=
  ∀ w : List Byte, 10 ≤ w.length →
    (fieldAddress w).toNat = 256 * (w.getD 1 0).toNat + (w.getD 2 0).toNat ∧
    (fieldType w).toNat = 256 * (w.getD 3 0).toNat + (w.getD 4 0).toNat ∧
    (fieldCrc w).toNat =
      2 ^ 24 * (w.getD (w.length - 6) 0).toNat + 2 ^ 16 * (w.getD (w.length - 5) 0).toNat +
        2 ^ 8 * (w.getD (w.length - 4) 0).toNat + (w.getD (w.length - 3) 0).toNat

/-- R130: what ENCODE returns, when it is refused, and that it changes nothing else. -/
def Obligations.EncodeReturnsTheFrame : Prop :=
  ∀ (addr type : Nat) (payload : List Byte) (s : State),
    let a : Half := BitVec.ofNat 16 (addr % 65536)
    let t : Half := BitVec.ofNat 16 (type % 65536)
    let hdr : List Byte := [0x3A, a.extractLsb' 8 8, a.extractLsb' 0 8, t.extractLsb' 8 8, t.extractLsb' 0 8]
    let c := crc32 (hdr ++ payload ++ [0x00, 0x00, 0x00, 0x00, 0x0D, 0x0A]) 0xFFFFFFFF
    ((∀ cap, s.params.maxPayload = some cap → payload.length ≤ cap) →
      exec (.encode addr type payload) s = .next { s with results := s.results ++ [.frame (hdr ++ payload ++
        [c.extractLsb' 24 8, c.extractLsb' 16 8, c.extractLsb' 8 8, c.extractLsb' 0 8, 0x0D, 0x0A])] }) ∧
    (∀ cap, s.params.maxPayload = some cap → cap < payload.length →
      exec (.encode addr type payload) s = .refused .payloadTooLong)

/-- 41_frame_codec.md (R131, derived there): the result of ENCODE has `11 + p` bytes and is the wire pattern
FRAME with the reduced operands and its own CRC as fields. -/
def Obligations.EncodeResultIsTheWirePattern : Prop :=
  ∀ (addr type : Nat) (payload : List Byte),
    (encodeFrame addr type payload).length = 11 + payload.length ∧
    decode (encodeFrame addr type payload) =
      .ok (.frame (BitVec.ofNat 16 addr) (BitVec.ofNat 16 type) payload
        (crc32 (frameBytes (BitVec.ofNat 16 addr) (BitVec.ofNat 16 type) payload 0) 0xFFFFFFFF))

/-- R132: what TRY_DECODE returns on every window it does not refuse, and that it changes nothing else. -/
def Obligations.TryDecodeFollowsItsRule : Prop :=
  ∀ (w : List Byte) (e : Nat) (s : State), ¬ (w.length = e ∧ e < 10) →
    let n := w.length
    let b := fun i => w.getD i 0
    let rx : Word := BitVec.ofNat 32 (2 ^ 24 * (b (n - 6)).toNat + 2 ^ 16 * (b (n - 5)).toNat +
      2 ^ 8 * (b (n - 4)).toNat + (b (n - 3)).toNat)
    let calc' := crc32 (w.take (n - 6) ++ [0x00, 0x00, 0x00, 0x00] ++ w.drop (n - 2)) 0xFFFFFFFF
    exec (.tryDecode w e) s = .next { s with results := s.results ++ [.decoded (
      if n = e ∧ b 0 = 0x3A ∧ b (n - 2) = 0x0D ∧ b (n - 1) = 0x0A then
        some { address := BitVec.ofNat 16 (256 * (b 1).toNat + (b 2).toNat)
               type := BitVec.ofNat 16 (256 * (b 3).toNat + (b 4).toNat)
               payload := (w.drop 5).take (n - 6 - 5)
               crcComputed := calc'
               crcReceived := rx
               crcCorrect := decide (calc' = rx) }
      else none)] }

/-- 41_frame_codec.md R133(c), (d): a window shorter than 10 bytes is refused when its length is the expected
one and is `None` when it is not. -/
def Obligations.ShortWindowsAreRefused : Prop :=
  ∀ (w : List Byte) (e : Nat) (s : State), w.length < 10 →
    (w.length = e → exec (.tryDecode w e) s = .refused .windowTooShort) ∧
    (w.length ≠ e → exec (.tryDecode w e) s = .next { s with results := s.results ++ [.decoded none] })

/-- 41_frame_codec.md R133(b): the phantom window, in which byte 4 is both the low byte of the type and the high
byte of the CRC, for any other header bytes. -/
def Obligations.PhantomWindowIsCrcCorrect : Prop :=
  ∀ w1 w2 w3 : Byte,
    let c := crc32 [0x3A, w1, w2, w3, 0x00, 0x00, 0x00, 0x00, 0x0D, 0x0A] 0xFFFFFFFF
    tryDecode ([0x3A, w1, w2, w3] ++ be32 c ++ [0x0D, 0x0A]) 10 =
      some { address := BitVec.ofNat 16 (256 * w1.toNat + w2.toNat)
             type := BitVec.ofNat 16 (256 * w3.toNat + (c.extractLsb' 24 8).toNat)
             payload := []
             crcComputed := c
             crcReceived := c
             crcCorrect := true }

/-- 41_frame_codec.md (R134, derived there): TRY_DECODE of an ENCODE result gives the operands back, with a
correct CRC. -/
def Obligations.DecodingAnEncodedFrameGivesItBack : Prop :=
  ∀ (addr type : Nat) (payload : List Byte),
    ∃ c : Word, tryDecode (encodeFrame addr type payload) (11 + payload.length) =
      some { address := BitVec.ofNat 16 addr, type := BitVec.ofNat 16 type, payload := payload,
             crcComputed := c, crcReceived := c, crcCorrect := true }

/-- 41_frame_codec.md (R135, derived there): every flip of one bit of an ENCODE result is detected: in the
marker, CR or LF as a structural rejection; in the address, type or payload by a changed computed CRC; in the
CRC field by a changed received CRC. -/
def Obligations.SingleBitFlipsAreDetected : Prop :=
  ∀ (addr type : Nat) (payload : List Byte) (k i : Nat),
    let f := encodeFrame addr type payload
    let n := 11 + payload.length
    let w := f.set k (f.getD k 0 ^^^ ((1 : Byte) <<< i))
    k < n → i < 8 →
    ((k = 0 ∨ k = n - 2 ∨ k = n - 1) → tryDecode w n = none) ∧
    (1 ≤ k → k < n - 6 → ∃ m, tryDecode w n = some m ∧ m.crcCorrect = false ∧
      m.crcReceived = fieldCrc f ∧ m.crcComputed ≠ crcComputed f) ∧
    (n - 6 ≤ k → k < n - 2 → ∃ m, tryDecode w n = some m ∧ m.crcCorrect = false ∧
      m.crcReceived ≠ fieldCrc f ∧ m.crcComputed = crcComputed f)

/-! ### The Stream Decoder -/

/-- R58: the three primitives of the ReceiveBuffer. -/
def Obligations.BufferPrimitives : Prop :=
  ∀ (d : Decoder) (c : List Byte) (k off n : Nat),
    (d.append c = { d with buf := d.buf ++ c } ∧ (d.append c).bufLen = d.bufLen + c.length) ∧
    (k ≤ d.bufLen → d.dropFront k = { d with buf := d.buf.drop k } ∧ (d.dropFront k).bufLen = d.bufLen - k ∧
      ∀ i, (d.dropFront k).buf[i]? = d.buf[k + i]?) ∧
    (off + n ≤ d.bufLen → (d.window off n).length = n ∧ ∀ i, i < n → (d.window off n)[i]? = d.buf[off + i]?)

/-- R8 (which numbers, and the refusal, are the model's: log 3): the system has the instances below `N_DEC`, and a
request or a reset signal to any other instance is refused. -/
def Obligations.InstancesAreNumberedBelowNDec : Prop :=
  ∀ (d : Nat) (s : State),
    (s.hasInst d = true ↔ ∀ n, s.params.nDec = some n → d < n) ∧
    (s.hasInst d = false →
      (∀ mode len ty tg v, exec (.configure d mode len ty tg v) s = .refused .noSuchDecoder) ∧
      (∀ c, exec (.receive d c) s = .refused .noSuchDecoder) ∧
      exec (.addDecoder d) s = .refused .noSuchDecoder ∧
      (∀ rest, s.inputs = { during := none, act := .resetDecoder d } :: rest →
        step s = .refused .noSuchDecoder))

/-- R150: when CONFIGURE is refused and what it writes; every other instance and everything else is unchanged. -/
def Obligations.ConfigureBindsOnce : Prop :=
  ∀ (d : Nat) (mode : Mode) (len : Nat) (type target : Half) (verbose : Bool) (s : State),
    s.hasInst d = true →
    ((s.inst d).configured = true →
      exec (.configure d mode len type target verbose) s = .refused .alreadyConfigured) ∧
    ((s.inst d).configured = false → mode = .fixedLen →
      (len < 10 ∨ ∃ cap, s.params.bufCap = some cap ∧ cap < len) →
      exec (.configure d mode len type target verbose) s = .refused .badLength) ∧
    ((s.inst d).configured = false →
      (mode = .variableLen ∨ 10 ≤ len ∧ ∀ cap, s.params.bufCap = some cap → len ≤ cap) →
      ∃ t, exec (.configure d mode len type target verbose) s = .next t ∧
        t.inst d = { s.inst d with
          cfg := { mode := mode, len := len, type := type, target := target, verbose := verbose }
          configured := true } ∧
        (∀ e, e ≠ d → t.inst e = s.inst e) ∧ { t with insts := s.insts } = s)

/-- R151, R152, R166: RECEIVE is refused before CONFIGURE; otherwise it completes, changes its own instance only,
and does nothing when `OVF = 1`, sets `OVF` and nothing else when the chunk does not fit, and otherwise appends
the chunk, resynchronizes and scans. -/
def Obligations.ReceiveRunsItsSteps : Prop :=
  ∀ (d : Nat) (chunk : List Byte) (s : State),
    let x := s.inst d
    let y := ({ x with buf := x.buf ++ chunk } : Decoder).resync
    s.hasInst d = true →
    (x.configured = false → exec (.receive d chunk) s = .refused .notConfigured) ∧
    (x.configured = true → ∃ t, exec (.receive d chunk) s = .next t ∧
      (∀ e, e ≠ d → t.inst e = s.inst e) ∧ { t with insts := s.insts } = s ∧
      t.inst d = x.receive s.params.bufCap chunk ∧
      (x.ovf = true → t.inst d = x) ∧
      (x.ovf = false → (∃ cap, s.params.bufCap = some cap ∧ cap < x.bufLen + chunk.length) →
        t.inst d = { x with ovf := true }) ∧
      (x.ovf = false → (∀ cap, s.params.bufCap = some cap → x.bufLen + chunk.length ≤ cap) →
        t.inst d = if x.cfg.mode = .fixedLen then y.scanFixed else y.scanVar 10))

/-- R153: RESYNC drops the bytes before the first start marker, and only those. -/
def Obligations.ResyncDropsToTheMarker : Prop :=
  ∀ d : Decoder, ∃ k, d.resync = { d with buf := d.buf.drop k } ∧ (∀ b ∈ d.buf.take k, b ≠ 0x3A) ∧
    (d.resync.buf = [] ∨ d.resync.buf.head? = some 0x3A)

/-- R154: the loop of SCAN_FIXED, one pass unrolled. -/
def Obligations.ScanFixedIsItsLoop : Prop :=
  ∀ d : Decoder, 1 ≤ d.cfg.len →
    d.scanFixed =
      if d.bufLen < d.cfg.len then d
      else
        match tryDecode (d.buf.take d.cfg.len) d.cfg.len with
        | some m => (((d.report (crcEvents m)).dispatch m).dropFront d.cfg.len).scanFixed
        | none => ((d.report (rejectionEvents (d.buf.take d.cfg.len))).dropFront 1).scanFixed

/-- 42_stream_decoder.md R155: the search accepts the first acceptable candidate, earliest offset first, then
shortest length, and nothing when there is none; for every value of `MIN_LEN`. -/
def Obligations.SearchAcceptsTheFirstValidMatch : Prop :=
  ∀ (minLen : Nat) (buf : List Byte),
    (∀ (off n : Nat) (m : DecodedMessage), search minLen buf = some ((off, n), m) ↔
      Acceptable minLen buf off n m ∧
        ∀ off' n' m', (off' < off ∨ off' = off ∧ n' < n) → ¬ Acceptable minLen buf off' n' m') ∧
    (search minLen buf = none ↔ ∀ off n m, ¬ Acceptable minLen buf off n m)

/-- 42_stream_decoder.md R155, R157: the loop of SCAN_VAR, one search unrolled, for every positive `MIN_LEN`. -/
def Obligations.ScanVarIsItsLoop : Prop :=
  ∀ (minLen : Nat) (d : Decoder), 1 ≤ minLen →
    d.scanVar minLen =
      if d.bufLen < minLen then d
      else
        match search minLen d.buf with
        | none => d.report (searchEvents minLen d.buf)
        | some ((off, n), m) =>
          (((d.report (searchEvents minLen d.buf)).dispatch m).dropFront (off + n)).scanVar minLen

/-- R156: DISPATCH invokes the handler exactly when address and type match, whatever the CRC, and changes nothing
else but the diagnostic output. -/
def Obligations.DispatchFiltersByAddressAndType : Prop :=
  ∀ (d : Decoder) (m : DecodedMessage),
    (m.address = d.cfg.target → m.type = d.cfg.type → d.dispatch m = { d with out := d.out ++ [m] }) ∧
    (m.address ≠ d.cfg.target ∨ m.type ≠ d.cfg.type →
      d.dispatch m = { d with diag := (d.dispatch m).diag })

/-- 42_stream_decoder.md (R160, derived there): after a FIXED RECEIVE that did not fault, `BUF_LEN < CFG.LEN`. -/
def Obligations.FixedReceiveLeavesLessThanAFrame : Prop :=
  ∀ (cap : Option Nat) (c : List Byte) (d : Decoder), d.cfg.mode = .fixedLen → 1 ≤ d.cfg.len →
    (d.receive cap c).ovf = false → (d.receive cap c).bufLen < d.cfg.len

/-- 42_stream_decoder.md (R161, derived there): in FIXED mode the handler invocations do not depend on where the
chunk boundaries fall, for every capacity within which all the chunks fit at once; and then they do not overflow
one by one either. -/
def Obligations.FixedOutputIgnoresChunking : Prop :=
  ∀ (cap : Option Nat) (d : Decoder) (c : List Byte) (cs : List (List Byte)), d.cfg.mode = .fixedLen →
    1 ≤ d.cfg.len → d.ovf = false → fits cap (d.bufLen + (c :: cs).flatten.length) = true →
    ((c :: cs).foldl (fun d c => d.receive cap c) d).out = (d.receive cap (c :: cs).flatten).out ∧
    ((c :: cs).foldl (fun d c => d.receive cap c) d).ovf = false

/-- 42_stream_decoder.md R162 (its example): in VARIABLE mode chunk boundaries are observable. -/
def Obligations.VariableOutputDependsOnChunking : Prop :=
  ∃ (d : Decoder) (c₁ c₂ : List Byte), d.configured = true ∧ d.cfg.mode = .variableLen ∧ d.ovf = false ∧
    ((d.receive none c₁).receive none c₂).out ≠ (d.receive none (c₁ ++ c₂)).out

/-- 42_stream_decoder.md (R163, derived there): after any RECEIVE an empty chunk makes no invocation. -/
def Obligations.EmptyChunkInvokesNoHandler : Prop :=
  ∀ (cap : Option Nat) (c : List Byte) (d : Decoder), (d.cfg.mode = .fixedLen → 1 ≤ d.cfg.len) →
    d.ovf = false → ((d.receive cap c).receive cap []).out = (d.receive cap c).out

/-- 70_reset_and_hazards.md R231 with its precondition: a FIXED decoder given garbage in which no window is
structurally valid, then a frame for it, delivers exactly that frame and keeps nothing. -/
def Obligations.FixedResynchronizesAfterGarbage : Prop :=
  ∀ (cap : Option Nat) (d : Decoder) (garbage f : List Byte), d.cfg.mode = .fixedLen → d.ovf = false →
    d.buf = [] → f.length = d.cfg.len → fits cap (garbage.length + f.length) = true →
    structOk f d.cfg.len = true →
    (∀ i, i < garbage.length → structOk (((garbage ++ f).drop i).take d.cfg.len) d.cfg.len = false) →
    (decodeWindow f).address = d.cfg.target → (decodeWindow f).type = d.cfg.type →
    (d.receive cap (garbage ++ f)).out = d.out ++ [decodeWindow f] ∧ (d.receive cap (garbage ++ f)).buf = []

/-- 42_stream_decoder.md R165: a frame for another address or type is consumed without an invocation, by a FIXED
decoder whatever its CRC and by a VARIABLE one when the search accepts it whole. -/
def Obligations.FilteredFramesAreConsumed : Prop :=
  ∀ (cap : Option Nat) (d : Decoder) (f : List Byte), d.ovf = false → d.buf = [] →
    fits cap f.length = true → 10 ≤ f.length → structOk f f.length = true →
    ((decodeWindow f).address ≠ d.cfg.target ∨ (decodeWindow f).type ≠ d.cfg.type) →
    (d.cfg.mode = .fixedLen ∧ d.cfg.len = f.length ∨
      d.cfg.mode = .variableLen ∧ search 10 f = some ((0, f.length), decodeWindow f)) →
    (d.receive cap f).out = d.out ∧ (d.receive cap f).buf = []

/-- 60_exceptions.md R203: what RECEIVE hands to the handler: address and type are the configured ones, the flag
is the comparison of the CRCs, and in VARIABLE mode it is true. -/
def Obligations.InvocationsMatchTheConfiguration : Prop :=
  ∀ (cap : Option Nat) (c : List Byte) (d : Decoder), ∃ ms, (d.receive cap c).out = d.out ++ ms ∧
    ∀ m ∈ ms, m.address = d.cfg.target ∧ m.type = d.cfg.type ∧
      m.crcCorrect = decide (m.crcComputed = m.crcReceived) ∧
      (d.cfg.mode = .variableLen → m.crcCorrect = true)

/-- 60_exceptions.md R212: the diagnostics influence nothing: RECEIVE of a decoder with the diagnostics taken out
is RECEIVE with the diagnostics taken out; and with `CFG.VERBOSE = 0` none is emitted. -/
def Obligations.DiagnosticsInfluenceNothing : Prop :=
  ∀ (cap : Option Nat) (c : List Byte) (d : Decoder),
    (d.receive cap c).silent = d.silent.receive cap c ∧
    (d.cfg.verbose = false → (d.receive cap c).diag = d.diag)

/-- 60_exceptions.md R191 to R193, R201, R212 (the record and the free value are the model's, log 15, log 16):
the events of one pass of a verbose FIXED scan, for every value of the free value. -/
def Obligations.VerboseFixedPassReports : Prop :=
  ∀ d : Decoder, d.cfg.verbose = true → d.cfg.len ≤ d.bufLen →
    let w := d.buf.take d.cfg.len
    let m := decodeWindow w
    (∀ c, structFailure w d.cfg.len = some c → d.fixedPass.diag = d.diag ++ [.structural c]) ∧
    (structOk w d.cfg.len = true → m.crcCorrect = false → m.address = d.cfg.target → m.type = d.cfg.type →
      d.fixedPass.diag = d.diag ++ [.crcMismatch]) ∧
    (structOk w d.cfg.len = true → m.crcCorrect = true → m.address ≠ d.cfg.target →
      d.fixedPass.diag = d.diag ++ [.mismatch .address]) ∧
    (structOk w d.cfg.len = true → m.crcCorrect = true → m.address = d.cfg.target → m.type ≠ d.cfg.type →
      d.fixedPass.diag = d.diag ++ [.mismatch .type]) ∧
    (structOk w d.cfg.len = true → m.crcCorrect = false → m.address ≠ d.cfg.target →
      d.fixedPass.diag = d.diag ++ [.crcMismatch] ∨
      d.fixedPass.diag = d.diag ++ [.crcMismatch, .mismatch .address]) ∧
    (structOk w d.cfg.len = true → m.crcCorrect = false → m.address = d.cfg.target → m.type ≠ d.cfg.type →
      d.fixedPass.diag = d.diag ++ [.crcMismatch] ∨
      d.fixedPass.diag = d.diag ++ [.crcMismatch, .mismatch .type]) ∧
    (structOk w d.cfg.len = true → m.crcCorrect = true → m.address = d.cfg.target → m.type = d.cfg.type →
      d.fixedPass.diag = d.diag)

/-- 60_exceptions.md R191, R192, R193, R212 (the record is the model's, log 15): the events of one verbose search.
Every candidate passed over, in the order of R155, is one event: its first failing structural check, or else its
wrong CRC. The accepted candidate, if any, is followed by no event but the mismatch of its address or type; with
no acceptance there is nothing more. -/
def Obligations.VerboseSearchReports : Prop :=
  ∀ (minLen : Nat) (d : Decoder), d.cfg.verbose = true →
    let event := fun c : Nat × Nat =>
      match structFailure ((d.buf.drop c.1).take c.2) c.2 with
      | some cause => DiagEvent.structural cause
      | none => DiagEvent.crcMismatch
    let all := (List.range d.bufLen).flatMap fun off =>
      (List.range' minLen (d.bufLen - off + 1 - minLen)).map fun n => (off, n)
    (search minLen d.buf = none → minLen ≤ d.bufLen → 1 ≤ minLen →
      (d.scanVar minLen).diag = d.diag ++ all.map event) ∧
    (∀ off n m, search minLen d.buf = some ((off, n), m) → ∃ before after,
      all = before ++ (off, n) :: after ∧
      ((d.report (searchEvents minLen d.buf)).dispatch m).diag = d.diag ++ before.map event ++
        (if m.address ≠ d.cfg.target then [.mismatch .address]
         else if m.type ≠ d.cfg.type then [.mismatch .type]
         else []))

/-- R195: the codes of the classes and of their sub-causes. -/
def Obligations.DiagnosticCodes : Prop :=
  (∀ c, (DiagEvent.structural c).code = 1) ∧ DiagEvent.crcMismatch.code = 2 ∧
  (∀ c, (DiagEvent.mismatch c).code = 3) ∧ DiagEvent.transportFailure.code = 4 ∧
  (DiagEvent.structural .length).sub = some 1 ∧ (DiagEvent.structural .startMarker).sub = some 2 ∧
  (DiagEvent.structural .cr).sub = some 3 ∧ (DiagEvent.structural .lf).sub = some 4 ∧
  (DiagEvent.mismatch .address).sub = some 1 ∧ (DiagEvent.mismatch .type).sub = some 2 ∧
  DiagEvent.crcMismatch.sub = none ∧ DiagEvent.transportFailure.sub = none

/-! ### The environment -/

/-- R180: ADD_DECODER registers a configured decoder and changes nothing else. -/
def Obligations.AddDecoderRegisters : Prop :=
  ∀ (d : Nat) (s : State), s.hasInst d = true → (s.inst d).configured = true →
    exec (.addDecoder d) s = .next { s with decoders := s.decoders ++ [d] }

/-- ADD_DECODER of an instance that is not configured (R180 takes a configured one; that the model registers it
all the same is its choice, log 9). -/
def Obligations.AddDecoderTakesAnUnconfiguredInstance : Prop :=
  ∀ (d : Nat) (s : State), s.hasInst d = true → (s.inst d).configured = false →
    exec (.addDecoder d) s = .next { s with decoders := s.decoders ++ [d] }

/-- R182: BROADCAST gives the same whole chunk to every registered decoder, once for each registration, reaches no
other decoder and changes nothing else; the result names no visiting order. -/
def Obligations.BroadcastFeedsEveryDecoder : Prop :=
  ∀ (chunk : List Byte) (s : State), s.reader = .running → chunk ≠ [] →
    (∀ d ∈ s.decoders, (s.inst d).configured = true) →
    ∃ t, exec (.broadcast chunk) s = .next t ∧
      (∀ d, t.inst d = (fun x => x.receive s.params.bufCap chunk)^[s.decoders.count d] (s.inst d)) ∧
      { t with insts := s.insts } = s

/-- When BROADCAST stops (the model's reading of R151, R186 and R242: log 10, log 11, log 19): without a reader
task it is refused; with a registered decoder that is not configured it is refused; an empty chunk reaches no
decoder. -/
def Obligations.BroadcastStopsWithoutReader : Prop :=
  ∀ (chunk : List Byte) (s : State),
    (s.reader ≠ .running → exec (.broadcast chunk) s = .refused .readerStopped) ∧
    (s.reader = .running → chunk ≠ [] → (∃ d ∈ s.decoders, (s.inst d).configured = false) →
      exec (.broadcast chunk) s = .refused .notConfigured) ∧
    (s.reader = .running → exec (.broadcast []) s = .next s)

/-- R184: SEND writes its bytes to the transport unchanged and touches nothing else. -/
def Obligations.SendWritesUnchanged : Prop :=
  ∀ (bytes : List Byte) (s : State), exec (.send bytes) s = .next { s with sent := s.sent ++ [bytes] }

/-- A frame on the wire (R80 for its bytes; that its arrival is one chunk for the reader task is the model's
choice, log 12): every registered decoder receives exactly the bytes of R80; with no reader task, nothing
happens. -/
def Obligations.FrameOnTheWireReachesTheDecoders : Prop :=
  ∀ (address type : Half) (payload : List Byte) (crc : Word) (s : State),
    let f : List Byte := [0x3A, address.extractLsb' 8 8, address.extractLsb' 0 8,
      type.extractLsb' 8 8, type.extractLsb' 0 8] ++ payload ++
      [crc.extractLsb' 24 8, crc.extractLsb' 16 8, crc.extractLsb' 8 8, crc.extractLsb' 0 8, 0x0D, 0x0A]
    (s.reader = .running → (∀ d ∈ s.decoders, (s.inst d).configured = true) →
      ∃ t, exec (.frame address type payload crc) s = .next t ∧
        (∀ d, t.inst d = (fun x => x.receive s.params.bufCap f)^[s.decoders.count d] (s.inst d)) ∧
        { t with insts := s.insts } = s) ∧
    (s.reader ≠ .running → exec (.frame address type payload crc) s = .next s)

/-- R92: `op = 000` selects no operation and is refused, and operand values outside an
operation's legal range are refused: CONFIGURE with `L < 10`, TRY_DECODE with a window shorter than 10 bytes (of
the expected length), ENCODE beyond `MAX_PAYLOAD`. A refusal gives no next state. -/
def Obligations.RequestsWithoutMeaningAreRefused : Prop :=
  ∀ s : State,
    exec .reserved000 s = .refused .reservedSelect ∧
    (∀ d len ty tg v, s.hasInst d = true → len < 10 → exec (.configure d .fixedLen len ty tg v) s =
      .refused (if (s.inst d).configured then .alreadyConfigured else .badLength)) ∧
    (∀ (w : List Byte), w.length < 10 → exec (.tryDecode w w.length) s = .refused .windowTooShort) ∧
    (∀ addr type payload cap, s.params.maxPayload = some cap → cap < payload.length →
      exec (.encode addr type payload) s = .refused .payloadTooLong)

/-! ### Steps, resets and the outside world -/

/-- A step takes the next request, decodes it and runs it; with nothing pending it keeps the state. -/
def Obligations.StepRunsTheDecodedOperation : Prop :=
  (∀ (bytes : List Byte) (rest : List Input) (i : Instr) (s : State),
    s.inputs = { during := none, act := .request bytes } :: rest → decode bytes = .ok i → i.wf = true →
    step s = exec i { s with inputs := rest }) ∧
  (∀ (bytes : List Byte) (rest : List Input) (e : DecodeError) (s : State),
    s.inputs = { during := none, act := .request bytes } :: rest → decode bytes = .error e →
    step s = .refused (.badRequest e)) ∧
  (∀ s : State, s.inputs = [] → step s = .next s)

/-- R39: the state after reset, for every piece of state to which the rule gives a value, whatever the
parameters. -/
def Obligations.ResetValues : Prop :=
  State.reset = State.resetWith Config.reference ∧
  ∀ p : Params, (State.resetWith p).acc = 0xFFFFFFFF ∧
    ∀ d, ((State.resetWith p).inst d).configured = false ∧ ((State.resetWith p).inst d).buf = [] ∧
      ((State.resetWith p).inst d).bufLen = 0 ∧ ((State.resetWith p).inst d).ovf = false ∧
      ((State.resetWith p).inst d).out = []

/-- R220: on reset every piece of state takes its value of R39. -/
def Obligations.BlockResetSetsEveryValue : Prop :=
  ∀ (s : State) (rest : List Input), s.inputs = { during := none, act := .reset } :: rest →
    ∃ t, step s = .next t ∧ t.acc = 0xFFFFFFFF ∧
      ∀ d, (t.inst d).configured = false ∧ (t.inst d).buf = [] ∧ (t.inst d).bufLen = 0 ∧
        (t.inst d).ovf = false ∧ (t.inst d).out = []

/-- The reset of one decoder (the model's choice, log 20, after R38): it resets that decoder, whose `CFG` takes the
values of log 4 (R39 gives none), and leaves every other decoder, `ACC` and everything else; and the block's reset leaves the environment, the parameters and the
pending inputs. -/
def Obligations.ResetsLeaveTheRestAlone : Prop :=
  ∀ (s : State) (rest : List Input),
    (s.inputs = { during := none, act := .reset } :: rest →
      ∃ t, step s = .next t ∧ t.params = s.params ∧ t.decoders = s.decoders ∧ t.sent = s.sent ∧
        t.reader = s.reader ∧ t.inputs = rest) ∧
    (∀ d, s.hasInst d = true → s.inputs = { during := none, act := .resetDecoder d } :: rest →
      ∃ t, step s = .next t ∧ t.inst d = Decoder.reset ∧ (∀ e, e ≠ d → t.inst e = s.inst e) ∧
        t.inputs = rest ∧ { t with insts := s.insts, inputs := s.inputs } = s)

/-- R221: only a reset clears `OVF`, empties `BUF` without a RECEIVE (BROADCAST and FRAME are RECEIVEs of the
registered decoders), or changes the configuration of a configured decoder. -/
def Obligations.OnlyResetClearsADecoder : Prop :=
  ∀ (s t : State) (d : Nat), step s = .next t → ¬ s.resetsNext d →
    ((s.inst d).ovf = true → (t.inst d).ovf = true) ∧
    ((s.inst d).configured = true → (t.inst d).configured = true ∧ (t.inst d).cfg = (s.inst d).cfg) ∧
    ((t.inst d).buf ≠ (s.inst d).buf → (∃ c, s.nextInstr = some (.receive d c)) ∨
      (d ∈ s.decoders ∧ ((∃ c, s.nextInstr = some (.broadcast c)) ∨
        ∃ a ty p c, s.nextInstr = some (.frame a ty p c))))

/-- R32: a RECEIVE that would exceed a finite `BUF_CAP` sets `OVF`; nothing else sets it, so that with `BUF_CAP`
infinite it is never set; and no step but a reset clears it. -/
def Obligations.OverflowFlagIsSticky : Prop :=
  (∀ (s : State) (d cap : Nat) (c : List Byte), s.hasInst d = true → (s.inst d).configured = true →
    s.params.bufCap = some cap →
    cap < (s.inst d).bufLen + c.length →
    ∃ t, exec (.receive d c) s = .next t ∧ (t.inst d).ovf = true) ∧
  (∀ (s t : State) (d : Nat), step s = .next t → (s.inst d).ovf = false → (t.inst d).ovf = true →
    ∃ cap, s.params.bufCap = some cap ∧ ∃ c : List Byte,
      ((s.nextInstr = some (.receive d c)) ∨ (d ∈ s.decoders ∧ (s.nextInstr = some (.broadcast c) ∨
        ∃ a ty p crc, s.nextInstr = some (.frame a ty p crc) ∧ c = frameBytes a ty p crc))) ∧
      cap < (t.inst d).bufLen + c.length) ∧
  (∀ (s t : State) (d : Nat), step s = .next t → ¬ s.resetsNext d → (s.inst d).ovf = true →
    (t.inst d).ovf = true)

/-- 10_state.md R36, 20_memory.md R62: without a reset the handler invocations of a decoder are only added to, at
the end. -/
def Obligations.InvocationsOnlyGrow : Prop :=
  ∀ (s t : State) (d : Nat), step s = .next t → ¬ s.resetsNext d → (s.inst d).out <+: (t.inst d).out

/-- 43_dispatcher.md R186, R243 (the status of the reader task is the model's, log 19): a transport failure or a
shutdown ends the reader task and leaves every decoder and everything else as it is, and changes nothing once the
reader task has ended; no step starts it again. -/
def Obligations.ReaderEndLeavesDecodersAlone : Prop :=
  (∀ (s : State) (rest : List Input), s.reader = .running →
    (s.inputs = { during := none, act := .transportFailure } :: rest →
      step s = .next { s with reader := .failed, inputs := rest }) ∧
    (s.inputs = { during := none, act := .shutdown } :: rest →
      step s = .next { s with reader := .shutDown, inputs := rest })) ∧
  (∀ (s : State) (rest : List Input), s.reader ≠ .running →
    (s.inputs = { during := none, act := .transportFailure } :: rest ∨
      s.inputs = { during := none, act := .shutdown } :: rest) →
    step s = .next { s with inputs := rest }) ∧
  (∀ s t : State, step s = .next t → s.reader ≠ .running → t.reader = s.reader)

/-- 60_exceptions.md R198, R205, 70_reset_and_hazards.md R220, R227 (marked inputs are the model's, log 17, log 18):
an act made during the RECEIVE `p` is refused when it is a reset of the block, the reset of a busy decoder, a
RECEIVE of a busy decoder, a CONFIGURE of the decoder of `p`, or a BROADCAST that would feed a busy decoder; every
other act (the CRC Engine, ENCODE, TRY_DECODE, SEND, RECEIVE and reset of a decoder that is not busy among them)
is taken as at any other time. Busy are the decoder of `p` and those the BROADCAST in progress feeds (for another
task as for a handler: log 18). -/
def Obligations.NoReentryDuringReceive : Prop :=
  ∀ (s : State) (rest : List Input) (p : InProgress) (a : Act),
    s.inputs = { during := some p, act := a } :: rest →
    let busy := fun e : Nat => e = p.decoder ∨ e ∈ p.feeds
    let refusedThen := a = .reset ∨ (∃ e, a = .resetDecoder e ∧ busy e) ∨
      ∃ bytes i, a = .request bytes ∧ decode bytes = .ok i ∧
        ((∃ e c, i = .receive e c ∧ busy e) ∨
          (∃ mode len ty tg v, i = .configure p.decoder mode len ty tg v) ∨
          (∃ c, i = .broadcast c ∧ ∃ e ∈ s.decoders, busy e))
    (refusedThen → step s = .refused .decoderBusy) ∧
    (¬ refusedThen → step s = step { s with inputs := { during := none, act := a } :: rest })

/-- 70_reset_and_hazards.md R242: an empty read reaches no decoder and changes nothing else. -/
def Obligations.EmptyReadReachesNoDecoder : Prop :=
  ∀ (s : State) (rest : List Input), s.inputs = { during := none, act := .emptyRead } :: rest →
    step s = .next { s with inputs := rest }

/-- 00_scope.md R8, 10_state.md R37 (the form is the model's, log 6): the machine takes the parameters as an argument
and starts with them, no step changes them, and `core` is the machine with the reference values. -/
def Obligations.ParametersNeverChange : Prop :=
  (∀ p : Params, (coreWith p).reset = State.resetWith p ∧ (State.resetWith p).params = p ∧
    (coreWith p).step = step) ∧
  core = coreWith Config.reference ∧
  ∀ s t : State, step s = .next t → t.params = s.params

/-! ### Encoding -/

/-- Every request decodes to what was encoded: no operand value, and no bit of it, is dropped. -/
def Obligations.DecodeEncodeRoundTrip : Prop := ∀ i : Instr, i.wf = true → decode (encode i) = .ok i

/-- What the decoder accepts is well formed. -/
def Obligations.DecodedOperationsAreWellFormed : Prop :=
  ∀ (bytes : List Byte) (i : Instr), decode bytes = .ok i → i.wf = true

/-- Requests written out by hand: the selects of R89 with operands of 95_test_vectors.md and of R130, and the frame
F13 of R130 as the wire pattern of R80. The bytes in which the operands follow a select are the model's (log 2,
DESIGN CHOICE), and so are the zero bytes of the operands that `decodeTableWord` gives a select alone (log 24,
DESIGN CHOICE). -/
def Obligations.WrittenRequestsDecode : Prop :=
  decode [0x01, 0xFF, 0xFF, 0xFF, 0xFF] = .ok (.crcInit 0xFFFFFFFF) ∧
  decode [0x02, 0x31] = .ok (.crcByte 0x31) ∧
  decode [0x03] = .ok .crcRead ∧
  decode [0x04, 0x02, 0x02, 0x68, 0x69] = .ok (.encode 2 2 [0x68, 0x69]) ∧
  decode [0x05, 0x0D, 0x3A, 0x00] = .ok (.tryDecode [0x3A, 0x00] 13) ∧
  (∀ ops : List Byte, decode (0x00 :: ops) = .ok .reserved000) ∧
  decode [0x06, 0x00, 0x00, 0x02, 0x00, 0x02, 0x0D, 0x00, 0x00] =
    .ok (.configure 0 .fixedLen 13 0x0002 0x0002 false) ∧
  decode [0x07, 0x00, 0x00, 0xFF, 0x3A] = .ok (.receive 0 [0x00, 0xFF, 0x3A]) ∧
  decode [0x3A, 0x00, 0x02, 0x00, 0x02, 0x68, 0x69, 0x9F, 0x95, 0xC0, 0x4B, 0x0D, 0x0A] =
    .ok (.frame 0x0002 0x0002 [0x68, 0x69] 0x9F95C04B) ∧
  decodeTableWord 8 0x05 = some (.tryDecode [] 0)

/-! ### The invariant -/

/-- Reset satisfies the invariant of the machine (R27, R30 to R32, R39, R160, R203), whatever the parameters. -/
def Obligations.ResetSatisfiesInvariant : Prop :=
  State.reset.ok = true ∧ ∀ p : Params, (State.resetWith p).ok = true

/-- Every step keeps the invariant of the machine: the table of instances canonical, every instance in it or in
DECODERS one of the `N_DEC` (R8; log 3), and for every decoder
`BUF_LEN <= BUF_CAP` (R31), a legal configuration (R27), nothing received while unconfigured (R30), a FIXED
buffer shorter than a frame (R160), invocations as R203 says, and no overflow without a finite capacity
(R32). -/
def Obligations.StepKeepsInvariant : Prop :=
  ∀ s t : State, s.ok = true → step s = .next t → t.ok = true
end

