-- ==== Sys2Proof/Laws/Bytes.lean ====
section
/-! SUPPORT. Big-endian bytes, slices and the fields of a window. -/

namespace Sys2Proof.Machine

@[simp] theorem length_beBytes (n v : Nat) : (beBytes n v).length = n := by
  induction n with
  | zero => rfl
  | succ n ih => simp [beBytes, ih]

@[simp] theorem length_be16 (v : Half) : (be16 v).length = 2 := length_beBytes 2 _
@[simp] theorem length_be32 (v : Word) : (be32 v).length = 4 := length_beBytes 4 _

theorem foldl_be (l : List Byte) (v : Nat) :
    l.foldl (fun v b => 256 * v + b.toNat) v = v * 256 ^ l.length + beValue l := by
  induction l generalizing v with
  | nil => simp [beValue]
  | cons b l ih =>
    simp only [List.foldl_cons, beValue, List.length_cons]
    rw [ih, ih (256 * 0 + b.toNat)]
    ring

/-- Big-endian values of a concatenation (R10). -/
theorem beValue_append (l r : List Byte) : beValue (l ++ r) = beValue l * 256 ^ r.length + beValue r := by
  simp only [beValue, List.foldl_append]
  exact foldl_be r _

theorem beValue_cons (b : Byte) (l : List Byte) : beValue (b :: l) = b.toNat * 256 ^ l.length + beValue l := by
  have := beValue_append [b] l
  simpa [beValue] using this

/-- Reading big-endian bytes gives the value they were written from, modulo their width (R50). -/
theorem beValue_beBytes (n v : Nat) : beValue (beBytes n v) = v % 256 ^ n := by
  induction n with
  | zero => simp [beBytes, beValue, Nat.mod_one]
  | succ n ih =>
    have h : v % (256 ^ n * 256) = v % 256 ^ n + 256 ^ n * (v / 256 ^ n % 256) := Nat.mod_mul
    rw [beBytes, beValue_cons, length_beBytes, ih, BitVec.toNat_ofNat, pow_succ 256 n, h, Nat.add_comm,
      Nat.mul_comm]

theorem beValue_be16 (v : Half) : beValue (be16 v) = v.toNat := by
  rw [be16, beValue_beBytes, Nat.mod_eq_of_lt (by simpa using v.isLt)]

theorem beValue_be32 (v : Word) : beValue (be32 v) = v.toNat := by
  rw [be32, beValue_beBytes, Nat.mod_eq_of_lt (by simpa using v.isLt)]

/-- The slice of a sequence that begins with `a`. -/
theorem slice_append_left (a b : List Byte) {i j : Nat} (h : j ≤ a.length) :
    slice (a ++ b) i j = slice a i j := by
  unfold slice
  rcases Nat.lt_or_ge i j with hij | hij
  · rw [List.drop_append_of_le_length (by omega), List.take_append_of_le_length (by simp; omega)]
  · simp [Nat.sub_eq_zero_of_le hij]

/-- The slice of a sequence beyond a prefix `a`. -/
theorem slice_append_right (a b : List Byte) {i j : Nat} (h : a.length ≤ i) :
    slice (a ++ b) i j = slice b (i - a.length) (j - a.length) := by
  unfold slice
  rw [List.drop_append, List.drop_eq_nil_of_le h, List.nil_append]
  congr 1
  omega

/-- The middle part of three, as a slice. -/
theorem slice_middle (a m b : List Byte) : slice (a ++ (m ++ b)) a.length (a.length + m.length) = m := by
  rw [slice_append_right a _ (Nat.le_refl _)]
  simp [slice]

/-- Writing a field over the middle part of three. -/
theorem memWrite_middle (a m b : List Byte) (v : Nat) :
    memWrite (a ++ (m ++ b)) a.length m.length v = a ++ (beBytes m.length v ++ b) := by
  simp [memWrite, ← List.drop_drop]

theorem length_memWrite (s : List Byte) (a n v : Nat) (h : a + n ≤ s.length) :
    (memWrite s a n v).length = s.length := by
  simp [memWrite]; omega

/-- TRY_DECODE returns a message exactly when the structural checks pass (R25, R132). -/
theorem tryDecode_eq_some {w : List Byte} {e : Nat} {m : DecodedMessage} :
    tryDecode w e = some m ↔ structOk w e = true ∧ decodeWindow w = m := by
  unfold tryDecode
  split <;> simp_all

theorem tryDecode_eq_none {w : List Byte} {e : Nat} : tryDecode w e = none ↔ structOk w e = false := by
  unfold tryDecode
  split <;> simp_all

/-- The four structural checks (R132). -/
theorem structOk_iff {w : List Byte} {e : Nat} :
    structOk w e = true ↔ w.length = e ∧ byteAt w 0 = Config.startMarker ∧
      byteAt w (w.length - 2) = Config.cr ∧ byteAt w (w.length - 1) = Config.lf := by
  unfold structOk structFailure
  repeat' split
  all_goals simp_all

end Sys2Proof.Machine
end

