-- ==== Sys2Proof/Laws/State.lean ====
section
/-! SUPPORT. One lemma per field per update of State and of Decoder, each true by rfl. -/

namespace Sys2Proof.Machine

section StateFields
variable (s : State) (v : Word) (r : Result) (n k : Nat) (d : Decoder)

@[simp] theorem setAcc_params : (s.setAcc v).params = s.params := rfl
@[simp] theorem setAcc_acc : (s.setAcc v).acc = v := rfl
@[simp] theorem setAcc_insts : (s.setAcc v).insts = s.insts := rfl
@[simp] theorem setAcc_results : (s.setAcc v).results = s.results := rfl
@[simp] theorem setAcc_decoders : (s.setAcc v).decoders = s.decoders := rfl
@[simp] theorem setAcc_sent : (s.setAcc v).sent = s.sent := rfl
@[simp] theorem setAcc_reader : (s.setAcc v).reader = s.reader := rfl
@[simp] theorem setAcc_inputs : (s.setAcc v).inputs = s.inputs := rfl
@[simp] theorem setAcc_hasInst : (s.setAcc v).hasInst k = s.hasInst k := rfl
@[simp] theorem setAcc_inst : (s.setAcc v).inst n = s.inst n := rfl

@[simp] theorem giveResult_params : (s.giveResult r).params = s.params := rfl
@[simp] theorem giveResult_acc : (s.giveResult r).acc = s.acc := rfl
@[simp] theorem giveResult_insts : (s.giveResult r).insts = s.insts := rfl
@[simp] theorem giveResult_results : (s.giveResult r).results = s.results ++ [r] := rfl
@[simp] theorem giveResult_decoders : (s.giveResult r).decoders = s.decoders := rfl
@[simp] theorem giveResult_sent : (s.giveResult r).sent = s.sent := rfl
@[simp] theorem giveResult_reader : (s.giveResult r).reader = s.reader := rfl
@[simp] theorem giveResult_inputs : (s.giveResult r).inputs = s.inputs := rfl
@[simp] theorem giveResult_hasInst : (s.giveResult r).hasInst k = s.hasInst k := rfl
@[simp] theorem giveResult_inst : (s.giveResult r).inst n = s.inst n := rfl

@[simp] theorem setInst_params : (s.setInst n d).params = s.params := rfl
@[simp] theorem setInst_acc : (s.setInst n d).acc = s.acc := rfl
@[simp] theorem setInst_insts : (s.setInst n d).insts = instSet s.insts n d := rfl
@[simp] theorem setInst_results : (s.setInst n d).results = s.results := rfl
@[simp] theorem setInst_decoders : (s.setInst n d).decoders = s.decoders := rfl
@[simp] theorem setInst_sent : (s.setInst n d).sent = s.sent := rfl
@[simp] theorem setInst_reader : (s.setInst n d).reader = s.reader := rfl
@[simp] theorem setInst_inputs : (s.setInst n d).inputs = s.inputs := rfl
@[simp] theorem setInst_hasInst : (s.setInst n d).hasInst k = s.hasInst k := rfl

@[simp] theorem resetBlock_params : s.resetBlock.params = s.params := rfl
@[simp] theorem resetBlock_acc : s.resetBlock.acc = Config.crcInit := rfl
@[simp] theorem resetBlock_insts : s.resetBlock.insts = [] := rfl
@[simp] theorem resetBlock_results : s.resetBlock.results = [] := rfl
@[simp] theorem resetBlock_decoders : s.resetBlock.decoders = s.decoders := rfl
@[simp] theorem resetBlock_sent : s.resetBlock.sent = s.sent := rfl
@[simp] theorem resetBlock_reader : s.resetBlock.reader = s.reader := rfl
@[simp] theorem resetBlock_inputs : s.resetBlock.inputs = s.inputs := rfl
@[simp] theorem resetBlock_hasInst : s.resetBlock.hasInst k = s.hasInst k := rfl
@[simp] theorem resetBlock_inst : s.resetBlock.inst n = Decoder.reset := rfl

@[simp] theorem resetWith_params (p : Params) : (State.resetWith p).params = p := rfl
@[simp] theorem resetWith_inst (p : Params) : (State.resetWith p).inst n = Decoder.reset := rfl

end StateFields

section DecoderFields
variable (d : Decoder) (c : List Byte) (k : Nat) (m : DecodedMessage)

@[simp] theorem append_cfg : (d.append c).cfg = d.cfg := rfl
@[simp] theorem append_configured : (d.append c).configured = d.configured := rfl
@[simp] theorem append_buf : (d.append c).buf = d.buf ++ c := rfl
@[simp] theorem append_ovf : (d.append c).ovf = d.ovf := rfl
@[simp] theorem append_out : (d.append c).out = d.out := rfl
@[simp] theorem append_diag : (d.append c).diag = d.diag := rfl

@[simp] theorem dropFront_cfg : (d.dropFront k).cfg = d.cfg := rfl
@[simp] theorem dropFront_configured : (d.dropFront k).configured = d.configured := rfl
@[simp] theorem dropFront_buf : (d.dropFront k).buf = d.buf.drop k := rfl
@[simp] theorem dropFront_ovf : (d.dropFront k).ovf = d.ovf := rfl
@[simp] theorem dropFront_out : (d.dropFront k).out = d.out := rfl
@[simp] theorem dropFront_diag : (d.dropFront k).diag = d.diag := rfl

@[simp] theorem raiseOverflow_cfg : d.raiseOverflow.cfg = d.cfg := rfl
@[simp] theorem raiseOverflow_configured : d.raiseOverflow.configured = d.configured := rfl
@[simp] theorem raiseOverflow_buf : d.raiseOverflow.buf = d.buf := rfl
@[simp] theorem raiseOverflow_ovf : d.raiseOverflow.ovf = true := rfl
@[simp] theorem raiseOverflow_out : d.raiseOverflow.out = d.out := rfl
@[simp] theorem raiseOverflow_diag : d.raiseOverflow.diag = d.diag := rfl

@[simp] theorem emit_cfg : (d.emit m).cfg = d.cfg := rfl
@[simp] theorem emit_configured : (d.emit m).configured = d.configured := rfl
@[simp] theorem emit_buf : (d.emit m).buf = d.buf := rfl
@[simp] theorem emit_ovf : (d.emit m).ovf = d.ovf := rfl
@[simp] theorem emit_out : (d.emit m).out = d.out ++ [m] := rfl
@[simp] theorem emit_diag : (d.emit m).diag = d.diag := rfl

@[simp] theorem resync_cfg : d.resync.cfg = d.cfg := rfl
@[simp] theorem resync_configured : d.resync.configured = d.configured := rfl
@[simp] theorem resync_buf : d.resync.buf = d.buf.dropWhile (fun b => b != Config.startMarker) := rfl
@[simp] theorem resync_ovf : d.resync.ovf = d.ovf := rfl
@[simp] theorem resync_out : d.resync.out = d.out := rfl
@[simp] theorem resync_diag : d.resync.diag = d.diag := rfl

@[simp] theorem bufLen_eq : d.bufLen = d.buf.length := rfl

end DecoderFields

section Reports
variable (d : Decoder) (es : List DiagEvent)

@[simp] theorem report_cfg : (d.report es).cfg = d.cfg := by unfold Decoder.report; split <;> rfl
@[simp] theorem report_configured : (d.report es).configured = d.configured := by
  unfold Decoder.report; split <;> rfl
@[simp] theorem report_buf : (d.report es).buf = d.buf := by unfold Decoder.report; split <;> rfl
@[simp] theorem report_ovf : (d.report es).ovf = d.ovf := by unfold Decoder.report; split <;> rfl
@[simp] theorem report_out : (d.report es).out = d.out := by unfold Decoder.report; split <;> rfl
@[simp] theorem report_diag :
    (d.report es).diag = if d.cfg.verbose then d.diag ++ es else d.diag := by
  unfold Decoder.report; split <;> rfl

end Reports

section Dispatches
variable (d : Decoder) (m : DecodedMessage)

@[simp] theorem dispatch_cfg : (d.dispatch m).cfg = d.cfg := by unfold Decoder.dispatch; split <;> simp
@[simp] theorem dispatch_configured : (d.dispatch m).configured = d.configured := by
  unfold Decoder.dispatch; split <;> simp
@[simp] theorem dispatch_buf : (d.dispatch m).buf = d.buf := by unfold Decoder.dispatch; split <;> simp
@[simp] theorem dispatch_ovf : (d.dispatch m).ovf = d.ovf := by unfold Decoder.dispatch; split <;> simp

end Dispatches

end Sys2Proof.Machine
end

