-- ==== Sys2Proof/Laws/Insts.lean ====
section
/-! SUPPORT. The table of instances: a read after a write, and its canonical form. -/

namespace Sys2Proof.Machine

theorem instGet_filter_same (l : List (Nat × Decoder)) (n : Nat) :
    instGet (l.filter fun p => p.1 != n) n = Decoder.reset := by
  induction l with
  | nil => rfl
  | cons p rest ih =>
    by_cases h : p.1 = n
    · simpa [h] using ih
    · simpa [h, instGet] using ih

theorem instGet_filter_other (l : List (Nat × Decoder)) {n m : Nat} (h : m ≠ n) :
    instGet (l.filter fun p => p.1 != n) m = instGet l m := by
  induction l with
  | nil => rfl
  | cons p rest ih =>
    by_cases hp : p.1 = n
    · have hm : ¬ p.1 = m := fun e => h (e.symm.trans hp)
      simpa [hp, instGet, Ne.symm h] using ih
    · simp only [bne_iff_ne, ne_eq, hp, not_false_eq_true, List.filter_cons_of_pos, instGet]
      split <;> [rfl; exact ih]

theorem instGet_instInsert_same (l : List (Nat × Decoder)) (n : Nat) (d : Decoder) :
    instGet (instInsert l n d) n = d := by
  induction l with
  | nil => simp [instInsert, instGet]
  | cons p rest ih =>
    obtain ⟨k, e⟩ := p
    simp only [instInsert]
    split
    · simp [instGet]
    · split
      · simp [instGet]
      · rename_i hk
        simpa [instGet, Ne.symm hk] using ih

theorem instGet_instInsert_other (l : List (Nat × Decoder)) {n m : Nat} (d : Decoder) (h : m ≠ n) :
    instGet (instInsert l n d) m = instGet l m := by
  induction l with
  | nil => simp [instInsert, instGet, Ne.symm h]
  | cons p rest ih =>
    obtain ⟨k, e⟩ := p
    simp only [instInsert]
    split
    · simp [instGet, Ne.symm h]
    · split
      · rename_i hk
        simp [instGet, hk ▸ Ne.symm h, Ne.symm h]
      · simp [instGet, ih]

/-- A read after a write of the same instance gives what was written. -/
theorem instGet_instSet_same (l : List (Nat × Decoder)) (n : Nat) (d : Decoder) :
    instGet (instSet l n d) n = d := by
  unfold instSet
  split
  · rename_i h; rw [h, instGet_filter_same]
  · exact instGet_instInsert_same l n d

/-- A write leaves every other instance alone (R38, R181). -/
theorem instGet_instSet_other (l : List (Nat × Decoder)) {n m : Nat} (d : Decoder) (h : m ≠ n) :
    instGet (instSet l n d) m = instGet l m := by
  unfold instSet
  split
  · exact instGet_filter_other l h
  · exact instGet_instInsert_other l d h

@[simp] theorem inst_setInst_same (s : State) (n : Nat) (d : Decoder) : (s.setInst n d).inst n = d :=
  instGet_instSet_same s.insts n d

theorem inst_setInst_other (s : State) {n m : Nat} (d : Decoder) (h : m ≠ n) :
    (s.setInst n d).inst m = s.inst m :=
  instGet_instSet_other s.insts d h

/-- Which instances there are (R8; log 3). -/
theorem hasInst_iff (s : State) (n : Nat) : s.hasInst n = true ↔ ∀ k, s.params.nDec = some k → n < k := by
  unfold State.hasInst
  split <;> rename_i h <;> simp [h]

/-- The entries of a table after an insertion. -/
theorem mem_instInsert {l : List (Nat × Decoder)} {n : Nat} {d : Decoder} {p : Nat × Decoder}
    (h : p ∈ instInsert l n d) : p = (n, d) ∨ p ∈ l := by
  induction l with
  | nil => exact .inl (by simpa [instInsert] using h)
  | cons q rest ih =>
    obtain ⟨k, e⟩ := q
    simp only [instInsert] at h
    split at h
    · simpa using h
    · split at h
      · rcases List.mem_cons.1 h with h | h
        · exact .inl h
        · exact .inr (List.mem_cons_of_mem _ h)
      · rcases List.mem_cons.1 h with h | h
        · exact .inr (h ▸ List.mem_cons_self)
        · exact (ih h).imp_right (List.mem_cons_of_mem _)

/-- The entries of a table after a write: the one written, if it is listed, and entries of before. -/
theorem mem_instSet {l : List (Nat × Decoder)} {n : Nat} {d : Decoder} {p : Nat × Decoder}
    (h : p ∈ instSet l n d) : p = (n, d) ∨ p ∈ l := by
  unfold instSet at h
  split at h
  · exact .inr (List.mem_of_mem_filter h)
  · exact mem_instInsert h

/-- The canonical form, as a property of the list. -/
theorem instWf_iff (l : List (Nat × Decoder)) :
    instWf l = true ↔ l.Pairwise (fun p q => p.1 < q.1) ∧ ∀ p ∈ l, p.2 ≠ Decoder.reset := by
  induction l with
  | nil => simp [instWf]
  | cons p rest ih =>
    obtain ⟨k, d⟩ := p
    simp only [instWf, Bool.and_eq_true, decide_eq_true_eq, List.all_eq_true, ih, List.pairwise_cons,
      List.forall_mem_cons]
    tauto

theorem instInsert_pairwise {l : List (Nat × Decoder)} (n : Nat) (d : Decoder)
    (h : l.Pairwise fun p q => p.1 < q.1) : (instInsert l n d).Pairwise fun p q => p.1 < q.1 := by
  induction l with
  | nil => simp [instInsert]
  | cons q rest ih =>
    obtain ⟨k, e⟩ := q
    obtain ⟨hk, hr⟩ := List.pairwise_cons.1 h
    simp only [instInsert]
    split
    · rename_i hn
      refine List.pairwise_cons.2 ⟨fun p hp => ?_, h⟩
      rcases List.mem_cons.1 hp with rfl | hp
      · exact hn
      · exact hn.trans (hk p hp)
    · split
      · rename_i hn
        exact List.pairwise_cons.2 ⟨fun p hp => hn ▸ hk p hp, hr⟩
      · rename_i h1 h2
        refine List.pairwise_cons.2 ⟨fun p hp => ?_, ih hr⟩
        have hlt : k < n := by omega
        rcases mem_instInsert hp with rfl | h
        · exact hlt
        · exact hk p h

/-- A write keeps the canonical form. -/
theorem instWf_instSet {l : List (Nat × Decoder)} (n : Nat) (d : Decoder) (h : instWf l = true) :
    instWf (instSet l n d) = true := by
  rw [instWf_iff] at h ⊢
  obtain ⟨hp, hne⟩ := h
  refine ⟨?_, fun p hmem => ?_⟩
  · unfold instSet
    split
    · exact hp.filter _
    · exact instInsert_pairwise n d hp
  · rcases mem_instSet hmem with rfl | hm
    · intro hd
      unfold instSet at hmem
      rw [if_pos hd] at hmem
      simp at hmem
    · exact hne p hm

/-- A property of the reset decoder that every listed instance has, every instance has. -/
theorem inst_of_all {P : Decoder → Prop} {l : List (Nat × Decoder)} (h0 : P Decoder.reset)
    (h : ∀ p ∈ l, P p.2) (n : Nat) : P (instGet l n) := by
  induction l with
  | nil => exact h0
  | cons p rest ih =>
    simp only [instGet]
    split
    · exact h p List.mem_cons_self
    · exact ih fun q hq => h q (List.mem_cons_of_mem _ hq)

end Sys2Proof.Machine
end

