-- ==== Sys2Proof/Laws/Receive.lean ====
section
/-! SUPPORT. What the steps of RECEIVE can do to a decoder. -/

namespace Sys2Proof.Machine

/-- `d'` has the registers of `d` that no step of RECEIVE after APPEND writes, and no longer a buffer. -/
structure SameRegs (d d' : Decoder) : Prop where
  cfg : d'.cfg = d.cfg
  configured : d'.configured = d.configured
  ovf : d'.ovf = d.ovf
  buf : ∃ k, d'.buf = d.buf.drop k

theorem SameRegs.refl (d : Decoder) : SameRegs d d := ⟨rfl, rfl, rfl, 0, by simp⟩

theorem SameRegs.trans {a b c : Decoder} (h : SameRegs a b) (g : SameRegs b c) : SameRegs a c := by
  obtain ⟨h1, h2, h3, k, h4⟩ := h
  obtain ⟨g1, g2, g3, j, g4⟩ := g
  exact ⟨g1.trans h1, g2.trans h2, g3.trans h3, k + j, by rw [g4, h4, List.drop_drop]⟩

theorem SameRegs.length_le {a b : Decoder} (h : SameRegs a b) : b.buf.length ≤ a.buf.length := by
  obtain ⟨k, h⟩ := h.buf
  simp [h]

theorem sameRegs_resync (d : Decoder) : SameRegs d d.resync := by
  refine ⟨rfl, rfl, rfl, ?_⟩
  obtain ⟨t, ht⟩ := List.dropWhile_suffix (l := d.buf) (fun b => b != Config.startMarker)
  refine ⟨t.length, ?_⟩
  rw [resync_buf]
  conv_rhs => rw [← ht]
  simp

/-- One pass of SCAN_FIXED (R154). -/
theorem sameRegs_fixedPass (d : Decoder) : SameRegs d d.fixedPass := by
  unfold Decoder.fixedPass
  split
  · exact ⟨by simp, by simp, by simp, d.cfg.len, by simp⟩
  · exact ⟨by simp, by simp, by simp, 1, by simp⟩

/-- Each pass of SCAN_FIXED removes at least one byte (R159). -/
theorem fixedPass_shorter {d : Decoder} (hL : 1 ≤ d.cfg.len) (h : d.cfg.len ≤ d.buf.length) :
    d.fixedPass.buf.length < d.buf.length := by
  unfold Decoder.fixedPass
  split <;> simp <;> omega

theorem sameRegs_scanFixedUpTo (fuel : Nat) (d : Decoder) : SameRegs d (Decoder.scanFixedUpTo fuel d) := by
  induction fuel generalizing d with
  | zero => exact .refl d
  | succ fuel ih =>
    unfold Decoder.scanFixedUpTo
    split
    · exact .refl d
    · exact (sameRegs_fixedPass d).trans (ih _)

theorem sameRegs_scanVarUpTo (minLen fuel : Nat) (d : Decoder) :
    SameRegs d (Decoder.scanVarUpTo minLen fuel d) := by
  induction fuel generalizing d with
  | zero => exact .refl d
  | succ fuel ih =>
    unfold Decoder.scanVarUpTo
    split
    · exact .refl d
    · split
      · exact ⟨by simp, by simp, by simp, 0, by simp⟩
      · rename_i off n m _
        exact SameRegs.trans (b := ((d.report _).dispatch m).dropFront (off + n))
          ⟨by simp, by simp, by simp, off + n, by simp⟩ (ih _)

theorem sameRegs_scan (d : Decoder) : SameRegs d d.scan := by
  unfold Decoder.scan
  split
  · exact sameRegs_scanFixedUpTo _ d
  · exact sameRegs_scanVarUpTo _ _ d

/-- What a search can do (R155): find nothing, no candidate being acceptable, or the first acceptable one. -/
theorem search_cases (minLen : Nat) (buf : List Byte) :
    (search minLen buf = none ∧ ∀ c ∈ candidates minLen buf.length, accepted buf c = none) ∨
    ∃ c m before after, search minLen buf = some (c, m) ∧
      candidates minLen buf.length = before ++ c :: after ∧ accepted buf c = some m ∧
      ∀ x ∈ before, accepted buf x = none := by
  rcases h : search minLen buf with _ | ⟨c, m⟩
  · refine .inl ⟨rfl, fun c hc => ?_⟩
    simpa using List.findSome?_eq_none_iff.1 h c hc
  · obtain ⟨before, x, after, hl, hx, hb⟩ := List.findSome?_eq_some_iff.1 h
    rw [Option.map_eq_some_iff] at hx
    obtain ⟨m', ha, he⟩ := hx
    cases he
    exact .inr ⟨c, m, before, after, rfl, hl, ha, fun y hy => by simpa using hb y hy⟩

/-- The events of a search that passes over `before` and nothing else (R212). -/
theorem searchEvents_of_split {minLen : Nat} {buf : List Byte} {before after : List (Nat × Nat)}
    (hl : candidates minLen buf.length = before ++ after) (hb : ∀ x ∈ before, accepted buf x = none)
    (ha : ∀ x ∈ after.head?, accepted buf x ≠ none) :
    searchEvents minLen buf = before.flatMap (passedOverEvents buf) := by
  unfold searchEvents
  rw [hl, List.takeWhile_append_of_pos (by simpa using hb)]
  cases after with
  | nil => simp
  | cons x l => simp [ha x rfl]

/-- What RECEIVE can do (R151): nothing, the fault, or the steps. -/
theorem receive_cases (cap : Option Nat) (c : List Byte) (d : Decoder) :
    (d.ovf = true ∧ d.receive cap c = d) ∨
    (d.ovf = false ∧ fits cap (d.buf.length + c.length) = false ∧ d.receive cap c = d.raiseOverflow) ∨
    (d.ovf = false ∧ fits cap (d.buf.length + c.length) = true ∧
      d.receive cap c = ((d.append c).resync).scan) := by
  unfold Decoder.receive
  by_cases h : d.ovf = true
  · exact .inl ⟨h, by simp [h]⟩
  · simp only [Bool.not_eq_true] at h
    by_cases hf : fits cap (d.buf.length + c.length) = true
    · exact .inr (.inr ⟨h, hf, by simp [h, hf]⟩)
    · simp only [Bool.not_eq_true] at hf
      exact .inr (.inl ⟨h, hf, by simp [h, hf]⟩)

@[simp] theorem receive_cfg (cap : Option Nat) (c : List Byte) (d : Decoder) :
    (d.receive cap c).cfg = d.cfg := by
  rcases receive_cases cap c d with ⟨_, h⟩ | ⟨_, _, h⟩ | ⟨_, _, h⟩
  · rw [h]
  · rw [h]; rfl
  · rw [h, (sameRegs_scan _).cfg]; rfl

@[simp] theorem receive_configured (cap : Option Nat) (c : List Byte) (d : Decoder) :
    (d.receive cap c).configured = d.configured := by
  rcases receive_cases cap c d with ⟨_, h⟩ | ⟨_, _, h⟩ | ⟨_, _, h⟩
  · rw [h]
  · rw [h]; rfl
  · rw [h, (sameRegs_scan _).configured]; rfl

theorem fits_iff {cap : Option Nat} {n : Nat} : fits cap n = true ↔ ∀ c, cap = some c → n ≤ c := by
  cases cap <;> simp [fits]

theorem not_fits_iff {cap : Option Nat} {n : Nat} : fits cap n = false ↔ ∃ c, cap = some c ∧ c < n := by
  cases cap <;> simp [fits]

/-- The lengths CONFIGURE accepts in FIXED mode (R150). -/
theorem legalLength_fixed_iff {cap : Option Nat} {n : Nat} :
    legalLength cap .fixedLen n = true ↔ 10 ≤ n ∧ ∀ c, cap = some c → n ≤ c := by
  rw [← fits_iff, legalLength, Bool.and_eq_true, decide_eq_true_iff]
  rfl

theorem fits_mono {cap : Option Nat} {m n : Nat} (h : fits cap n = true) (hm : m ≤ n) :
    fits cap m = true := by
  cases cap with
  | none => rfl
  | some c => simp only [fits, decide_eq_true_eq] at *; omega

/-- RECEIVE keeps `BUF_LEN <= BUF_CAP` (R31). -/
theorem receive_fits {cap : Option Nat} (c : List Byte) {d : Decoder} (h : fits cap d.bufLen = true) :
    fits cap (d.receive cap c).bufLen = true := by
  rcases receive_cases cap c d with ⟨_, e⟩ | ⟨_, _, e⟩ | ⟨_, hf, e⟩
  · rwa [e]
  · rwa [e]
  · rw [e]
    refine fits_mono hf ?_
    have := ((sameRegs_resync (d.append c)).trans (sameRegs_scan _)).length_le
    simpa using this

end Sys2Proof.Machine
end

