-- ==== Sys2Proof/Laws/Memory.lean ====
section
/-! SUPPORT. Every operation on the block's memory keeps its well-formedness, and reset has it (R31, R39). -/

namespace Sys2Proof.Machine

theorem memory_wf_iff (s : State) :
    Memory.wf s = true ↔ instWf s.insts = true ∧ ∀ p ∈ s.insts, fits s.params.bufCap p.2.bufLen = true := by
  simp [Memory.wf]

theorem memory_wf_resetWith (p : Params) : Memory.wf (State.resetWith p) = true := rfl

theorem memory_wf_reset : Memory.wf State.reset = true := memory_wf_resetWith _

/-- Every instance's buffer is within the capacity (R31). -/
theorem inst_fits {s : State} (h : Memory.wf s = true) (n : Nat) :
    fits s.params.bufCap (s.inst n).bufLen = true := by
  refine inst_of_all (P := fun d => fits s.params.bufCap d.bufLen = true) ?_ ((memory_wf_iff s).1 h).2 n
  cases s.params.bufCap <;> simp [fits, Decoder.reset]

theorem memory_wf_setInst {s : State} (h : Memory.wf s = true) (n : Nat) {d : Decoder}
    (hd : fits s.params.bufCap d.bufLen = true) : Memory.wf (s.setInst n d) = true := by
  rw [memory_wf_iff] at h ⊢
  refine ⟨instWf_instSet n d h.1, fun p hp => ?_⟩
  rcases mem_instSet hp with rfl | hp
  · exact hd
  · exact h.2 p hp

theorem memory_wf_resetBlock (s : State) : Memory.wf s.resetBlock = true := by
  rw [memory_wf_iff]
  simp [instWf]

theorem memory_wf_resetInst {s : State} (h : Memory.wf s = true) (n : Nat) :
    Memory.wf (s.resetInst n) = true :=
  memory_wf_setInst h n (by cases s.params.bufCap <;> simp [fits, Decoder.reset])

/-- RECEIVE at one instance. -/
theorem memory_wf_receive {s : State} (h : Memory.wf s = true) (n : Nat) (c : List Byte) :
    Memory.wf (s.setInst n ((s.inst n).receive s.params.bufCap c)) = true :=
  memory_wf_setInst h n (receive_fits c (inst_fits h n))

/-- A chunk received by several instances. -/
theorem memory_wf_receiveEach {s : State} (c : List Byte) (ds : List Nat) (h : Memory.wf s = true) :
    Memory.wf (receiveEach c ds s) = true := by
  suffices H : ∀ t : State, t.params = s.params → Memory.wf t = true →
      Memory.wf (ds.foldl (fun t d => t.setInst d ((t.inst d).receive s.params.bufCap c)) t) = true from
    H s rfl h
  induction ds with
  | nil => exact fun t _ ht => ht
  | cons d ds ih =>
    intro t hp ht
    refine ih _ hp ?_
    have := memory_wf_receive ht d c
    rwa [hp] at this

end Sys2Proof.Machine
end

