-- ==== Sys2Proof/Laws/Exec.lean ====
section
/-! SUPPORT. What the shared operations of the environment and the step can do. -/

namespace Sys2Proof.Machine

/-- BROADCAST's work changes the instances only. -/
theorem receiveEach_frame (c : List Byte) (ds : List Nat) (s : State) :
    { receiveEach c ds s with insts := s.insts } = s := by
  suffices H : ∀ t : State, { t with insts := s.insts } = s →
      { ds.foldl (fun t d => t.setInst d ((t.inst d).receive s.params.bufCap c)) t with insts := s.insts } = s
    from H s rfl
  induction ds with
  | nil => exact fun t h => h
  | cons d ds ih => exact fun t h => ih _ h

/-- What BROADCAST's work does to one instance: a RECEIVE for each of its registrations (R182). -/
theorem receiveEach_inst (c : List Byte) (ds : List Nat) (s : State) (d : Nat) :
    (receiveEach c ds s).inst d = (fun x => x.receive s.params.bufCap c)^[ds.count d] (s.inst d) := by
  suffices H : ∀ t : State,
      (ds.foldl (fun t d => t.setInst d ((t.inst d).receive s.params.bufCap c)) t).inst d =
        (fun x => x.receive s.params.bufCap c)^[ds.count d] (t.inst d) from H s
  induction ds with
  | nil => exact fun t => rfl
  | cons e ds ih =>
    intro t
    rw [List.foldl_cons, ih]
    by_cases h : d = e
    · subst h
      simp [Function.iterate_succ_apply]
    · rw [inst_setInst_other _ _ h, List.count_cons_of_ne (Ne.symm h)]

/-- What forwarding a chunk can do (R182, R242). -/
theorem forwardChunk_cases {c : List Byte} {s t : State} (h : forwardChunk c s = .next t) :
    (c = [] ∧ t = s) ∨
    (c ≠ [] ∧ (∀ d ∈ s.decoders, (s.inst d).configured = true) ∧ t = receiveEach c s.decoders s) := by
  unfold forwardChunk at h
  split at h
  · rename_i hc
    cases h
    exact .inl ⟨by simpa using hc, rfl⟩
  · rename_i hc
    split at h
    · rename_i ha
      cases h
      exact .inr ⟨by simpa using hc, by simpa using ha, rfl⟩
    · cases h

/-- What an operation that answers a next state can do: write `ACC`, return a value, or both (the CRC Engine and
the Frame Codec), write one existing instance (CONFIGURE, RECEIVE), register an instance, write to the transport,
forward a chunk, or nothing (a frame that no reader task reads). -/
theorem exec_cases {i : Instr} {s t : State} (h : exec i s = .next t) :
    (∃ v, ((i = .crcInit v) ∨ (∃ b, i = .crcByte b ∧ v = crcStep s.acc b)) ∧ t = s.setAcc v) ∨
    (∃ r, (i = .crcRead ∨ (∃ a ty p, i = .encode a ty p) ∨ ∃ w e, i = .tryDecode w e) ∧ t = s.giveResult r) ∨
    (∃ bs v, i = .crc32 bs v ∧ t = (s.setAcc (crc32 bs v)).giveResult (.word (crc32 bs v))) ∨
    (∃ d mode len ty tg v, i = .configure d mode len ty tg v ∧ s.hasInst d = true ∧
      (s.inst d).configured = false ∧ legalLength s.params.bufCap mode len = true ∧
      t = s.setInst d { s.inst d with
        cfg := { mode := mode, len := len, type := ty, target := tg, verbose := v }
        configured := true }) ∨
    (∃ d c, i = .receive d c ∧ s.hasInst d = true ∧ (s.inst d).configured = true ∧
      t = s.setInst d ((s.inst d).receive s.params.bufCap c)) ∨
    (∃ d, i = .addDecoder d ∧ s.hasInst d = true ∧ t = { s with decoders := s.decoders ++ [d] }) ∨
    (∃ b, i = .send b ∧ t = { s with sent := s.sent ++ [b] }) ∨
    (∃ c, (i = .broadcast c ∨ ∃ a ty p crc, i = .frame a ty p crc ∧ c = frameBytes a ty p crc) ∧
      s.reader = .running ∧ forwardChunk c s = .next t) ∨
    ((∃ a ty p crc, i = .frame a ty p crc) ∧ s.reader ≠ .running ∧ t = s) := by
  cases i <;> simp only [exec] at h
  case crcInit v => cases h; exact .inl ⟨v, .inl rfl, rfl⟩
  case crcByte b => cases h; exact .inl ⟨_, .inr ⟨b, rfl, rfl⟩, rfl⟩
  case crcRead => cases h; exact .inr (.inl ⟨_, .inl rfl, rfl⟩)
  case crc32 bs v => cases h; exact .inr (.inr (.inl ⟨bs, v, rfl, rfl⟩))
  case encode a ty p =>
    unfold execEncode at h
    split at h <;> cases h
    exact .inr (.inl ⟨_, .inr (.inl ⟨a, ty, p, rfl⟩), rfl⟩)
  case tryDecode w e =>
    unfold execTryDecode at h
    split at h <;> cases h
    exact .inr (.inl ⟨_, .inr (.inr ⟨w, e, rfl⟩), rfl⟩)
  case configure d mode len ty tg v =>
    unfold execConfigure at h
    split at h
    · cases h
    · split at h
      · cases h
      · split at h <;> cases h
        rename_i hi hc hl
        exact .inr (.inr (.inr (.inl ⟨d, mode, len, ty, tg, v, rfl, by simpa using hi, by simpa using hc, hl, rfl⟩)))
  case receive d c =>
    unfold execReceive at h
    split at h
    · cases h
    · split at h <;> cases h
      rename_i hi hc
      exact .inr (.inr (.inr (.inr (.inl ⟨d, c, rfl, by simpa using hi, hc, rfl⟩))))
  case reserved000 => cases h
  case addDecoder d =>
    unfold execAddDecoder at h
    split at h <;> cases h
    rename_i hi
    exact .inr (.inr (.inr (.inr (.inr (.inl ⟨d, rfl, hi, rfl⟩)))))
  case broadcast c =>
    unfold execBroadcast at h
    split at h
    · rename_i hr
      exact .inr (.inr (.inr (.inr (.inr (.inr (.inr (.inl ⟨c, .inl rfl, hr, h⟩)))))))
    · cases h
  case send b => cases h; exact .inr (.inr (.inr (.inr (.inr (.inr (.inl ⟨b, rfl, rfl⟩))))))
  case frame a ty p crc =>
    unfold execFrame at h
    split at h
    · rename_i hr
      exact .inr (.inr (.inr (.inr (.inr (.inr (.inr (.inl ⟨_, .inr ⟨a, ty, p, crc, rfl, rfl⟩, hr, h⟩)))))))
    · rename_i hr
      cases h
      exact .inr (.inr (.inr (.inr (.inr (.inr (.inr (.inr ⟨⟨a, ty, p, crc, rfl⟩, hr, rfl⟩)))))))

/-- A step that answers a next state: idle, or an input that was taken (log 21). -/
theorem step_cases {s t : State} (h : step s = .next t) :
    (s.inputs = [] ∧ t = s) ∨
    ∃ x rest, s.inputs = x :: rest ∧ runAct x.act { s with inputs := rest } = .next t ∧
      (x.during = none ∨ ∃ p, x.during = some p ∧ State.blocksAct { s with inputs := rest } p x.act = false) := by
  unfold step at h
  split at h
  · rename_i hi
    cases h
    exact .inl ⟨hi, rfl⟩
  · rename_i x rest hi
    refine .inr ⟨x, rest, hi, ?_⟩
    unfold runInput at h
    split at h
    · rename_i hd
      exact ⟨h, .inl hd⟩
    · rename_i d hd
      split at h
      · cases h
      · rename_i hb
        exact ⟨h, .inr ⟨d, hd, by simpa using hb⟩⟩

/-- An act that answers a next state: an operation that was run, a reset, or an event of the environment that
leaves the block as it is. -/
theorem runAct_cases {a : Act} {s t : State} (h : runAct a s = .next t) :
    (∃ bytes i, a = .request bytes ∧ decode bytes = .ok i ∧ exec i s = .next t) ∨
    (a = .reset ∧ t = s.resetBlock) ∨
    (∃ d, a = .resetDecoder d ∧ s.hasInst d = true ∧ t = s.resetInst d) ∨
    ((a = .emptyRead ∨ a = .transportFailure ∨ a = .shutdown) ∧ ∃ r, t = { s with reader := r }) := by
  cases a with
  | request bytes =>
    simp only [runAct, runRequest] at h
    split at h
    · rename_i i hi
      exact .inl ⟨bytes, i, rfl, hi, h⟩
    · cases h
  | reset => cases h; exact .inr (.inl ⟨rfl, rfl⟩)
  | resetDecoder d =>
    simp only [runAct] at h
    split at h
    · rename_i hd
      cases h
      exact .inr (.inr (.inl ⟨d, rfl, hd, rfl⟩))
    · cases h
  | emptyRead => cases h; exact .inr (.inr (.inr ⟨.inl rfl, s.reader, rfl⟩))
  | transportFailure =>
    simp only [runAct] at h
    cases h
    refine .inr (.inr (.inr ⟨.inr (.inl rfl), ?_⟩))
    split
    · exact ⟨.failed, rfl⟩
    · exact ⟨s.reader, rfl⟩
  | shutdown =>
    simp only [runAct] at h
    cases h
    refine .inr (.inr (.inr ⟨.inr (.inr rfl), ?_⟩))
    split
    · exact ⟨.shutDown, rfl⟩
    · exact ⟨s.reader, rfl⟩

end Sys2Proof.Machine
end

