-- ==== Sys2Proof/Laws/PerInstr.lean ====
section
/-! SUPPORT. Statements about every operation as syntax: the select byte of its request (30_encoding.md R89,
R80; log 2). -/

namespace Sys2Proof.Laws.Select

/-- The select byte of each operation: R89 for the seven operations with a select and the reserved one, the
start marker of R80 for a frame, the model's own for the rest (log 2). -/
def selectByte : Instr → Byte
  | .reserved000 => 0
  | .crcInit _ => 1
  | .crcByte _ => 2
  | .crcRead => 3
  | .encode _ _ _ => 4
  | .tryDecode _ _ => 5
  | .configure _ _ _ _ _ _ => 6
  | .receive _ _ => 7
  | .crc32 _ _ => 0x09
  | .addDecoder _ => 0x10
  | .broadcast _ => 0x11
  | .send _ => 0x12
  | .frame _ _ _ _ => 0x3A

/-- The request of an operation begins with its select byte. -/
def Statement (i : Instr) : Prop := (encode i).head? = some (selectByte i)

theorem crcInit (v : Word) : Statement (.crcInit v) := rfl
theorem crcByte (b : Byte) : Statement (.crcByte b) := rfl
theorem crcRead : Statement .crcRead := rfl
theorem encode (addr type : Nat) (payload : List Byte) : Statement (.encode addr type payload) := rfl
theorem tryDecode (window : List Byte) (expected : Nat) : Statement (.tryDecode window expected) := rfl
theorem configure (d : Nat) (mode : Mode) (len : Nat) (type target : Half) (verbose : Bool) :
    Statement (.configure d mode len type target verbose) := rfl
theorem receive (d : Nat) (chunk : List Byte) : Statement (.receive d chunk) := rfl
theorem reserved000 : Statement .reserved000 := rfl
theorem crc32 (bytes : List Byte) (v : Word) : Statement (.crc32 bytes v) := rfl
theorem addDecoder (d : Nat) : Statement (.addDecoder d) := rfl
theorem broadcast (chunk : List Byte) : Statement (.broadcast chunk) := rfl
theorem send (bytes : List Byte) : Statement (.send bytes) := rfl
theorem frame (address type : Half) (payload : List Byte) (crc : Word) :
    Statement (.frame address type payload crc) := rfl

end Sys2Proof.Laws.Select
end

