-- ==== Sys2Proof/Tests/Slice0.lean ====
section
/-! SUPPORT. Small tests of the model, each expected value taken from the spec (95_test_vectors.md by its vector's
name, or the rule named), and a witness for the hypotheses of every statement. -/

namespace Sys2Proof.Tests

open Sys2Proof.Machine

/-- Whether an outcome is a next state with a property. -/
def nextSat (o : Host.Outcome State Fault Refusal) (p : State → Bool) : Bool :=
  match o with
  | .next t => p t
  | .fault _ => false
  | .refused _ => false

/-- Whether an outcome is the given refusal. -/
def refusedWith (o : Host.Outcome State Fault Refusal) (r : Refusal) : Bool :=
  match o with
  | .next _ => false
  | .fault _ => false
  | .refused q => decide (q = r)

/-- F13 of 95_test_vectors.md. -/
def f13 : List Byte := [0x3A, 0x00, 0x02, 0x00, 0x02, 0x68, 0x69, 0x9F, 0x95, 0xC0, 0x4B, 0x0D, 0x0A]

/-- The message of F13 (V-DEC-1). -/
def m13 : DecodedMessage :=
  { address := 2
    type := 2
    payload := [0x68, 0x69]
    crcComputed := 0x9F95C04B
    crcReceived := 0x9F95C04B
    crcCorrect := true }

/-- The phantom window of V-DEC-7. -/
def phantom : List Byte := [0x3A, 0x00, 0x02, 0x00, 0x77, 0x33, 0x76, 0x98, 0x0D, 0x0A]

/-- The message of the phantom window (V-DEC-7). -/
def phantomMessage : DecodedMessage :=
  { address := 2
    type := 0x77
    payload := []
    crcComputed := 0x77337698
    crcReceived := 0x77337698
    crcCorrect := true }

/-- A configured decoder: type and target `0x0002`, as in 95_test_vectors.md. -/
def dec (mode : Mode) (len : Nat) : Decoder :=
  { Decoder.reset with
    cfg := { mode := mode, len := len, type := 2, target := 2, verbose := false }
    configured := true }

/-- Reset, then instance 0 configured. -/
def sys (mode : Mode) (len : Nat) : State := { State.reset with insts := [(0, dec mode len)] }

/-- A state with one pending operation. -/
def pending (i : Instr) (s : State) : State :=
  { s with inputs := [{ during := none, act := .request (encode i) }] }

/-! ### Decoding: requests written out by hand -/

-- R89, D2: op 001, the value big-endian; omitted: R97
theorem test_decode_crcInit : decode [0x01, 0x12, 0x34, 0x56, 0x78] = .ok (.crcInit 0x12345678) := by decide
-- R89: op 010
theorem test_decode_crcByte : decode [0x02, 0x31] = .ok (.crcByte 0x31) := by decide
-- R89: op 011
theorem test_decode_crcRead : decode [0x03] = .ok .crcRead := by decide
-- R89: op 100; 200 = 72 + 128 * 1, so two digits (log 2)
theorem test_decode_encode : decode [0x04, 0xC8, 0x01, 0x02, 0x68, 0x69] = .ok (.encode 200 2 [0x68, 0x69]) := by
  decide
-- R89: op 101
theorem test_decode_tryDecode : decode [0x05, 0x0D, 0x3A, 0x0D] = .ok (.tryDecode [0x3A, 0x0D] 13) := by decide
-- R89: op 110; D6: VARIABLE is 1
theorem test_decode_configure :
    decode [0x06, 0x01, 0x12, 0x34, 0x00, 0x07, 0x0D, 0x01, 0x01] =
      .ok (.configure 1 .variableLen 13 0x0007 0x1234 true) := by decide
-- R89: op 111
theorem test_decode_receive : decode [0x07, 0x00, 0x3A, 0x00] = .ok (.receive 0 [0x3A, 0x00]) := by decide
-- R89, R92: op 000
theorem test_decode_reserved000 : decode [0x00] = .ok .reserved000 := by decide
-- R97: explicit initial value (log 2)
theorem test_decode_crc32 : decode [0x09, 0, 0, 0, 1, 0x31] = .ok (.crc32 [0x31] 1) := by decide
theorem test_decode_addDecoder : decode [0x10, 0x05] = .ok (.addDecoder 5) := by decide
theorem test_decode_broadcast : decode [0x11, 0x3A] = .ok (.broadcast [0x3A]) := by decide
theorem test_decode_send : decode [0x12, 0x3A] = .ok (.send [0x3A]) := by decide
-- R80, V-ENC-2: the shortest frame
theorem test_decode_frame :
    decode [0x3A, 0x00, 0x00, 0x00, 0x00, 0x3D, 0x7F, 0x4E, 0x96, 0x0D, 0x0A] =
      .ok (.frame 0 0 [] 0x3D7F4E96) := by decide
-- R80: a 10-byte window is no frame (R6)
theorem test_decode_phantom : decode phantom = .error .notAFrame := by decide
theorem test_decode_unknown : decode [0x0A] = .error (.unknownSelect 0x0A) := by decide
theorem test_table_words :
    (List.range 8).map (decodeTableWord 8) =
      [some .reserved000, some (.crcInit 0), some (.crcByte 0), some .crcRead, some (.encode 0 0 []),
       some (.tryDecode [] 0), some (.configure 0 .fixedLen 0 0 0 false), some (.receive 0 [])] := by decide

/-! ### Well-formedness: an ill-formed term for each check -/

-- R182: the chunk is non-empty
theorem test_wf_refuses_empty_broadcast : Instr.wf (.broadcast []) = false := by decide
theorem test_decode_refuses_empty_broadcast : decode [0x11] = .error .emptyChunk := by decide

/-! ### One step of each operation -/

-- V-CRC-13 start
theorem test_crcInit : nextSat (exec (.crcInit 0) State.reset) (fun t => t.acc == 0) = true := by decide
-- V-CRC-16
theorem test_crcByte : nextSat (exec (.crcByte 0x31) State.reset) (fun t => t.acc == 0x9EFBCF93) = true := by
  decide +kernel
-- V-CRC-14
theorem test_crcByte_top : nextSat (exec (.crcByte 0x80) { State.reset with acc := 0 })
    (fun t => t.acc == 0x690CE0EE) = true := by decide +kernel
-- R111: "CRC.INIT then CRC.READ -> 0xFFFFFFFF"
theorem test_crcRead : nextSat (exec .crcRead State.reset)
    (fun t => decide (t.results = [.word 0xFFFFFFFF])) = true := by decide
-- V-CRC-2; R97: the accumulator is the architectural one
theorem test_crc32 : nextSat (exec (.crc32 [0x31, 0x32, 0x33, 0x34, 0x35, 0x36, 0x37, 0x38, 0x39] 0xFFFFFFFF)
    State.reset) (fun t => t.acc == 0x0376E6E7) = true := by decide +kernel
-- V-ENC-6: operands reduced, payload not escaped
theorem test_encode : nextSat (exec (.encode 0x10002 0x1ABCD [0x3A, 0x0D, 0x0A]) State.reset)
    (fun t => decide (t.results = [.frame [0x3A, 0x00, 0x02, 0xAB, 0xCD, 0x3A, 0x0D, 0x0A, 0xA1, 0xB6, 0xDF, 0x67,
      0x0D, 0x0A]])) = true := by decide +kernel
-- R8: a finite MAX_PAYLOAD
theorem test_encode_too_long : refusedWith (exec (.encode 0 0 [1, 2])
    (State.resetWith { Config.reference with maxPayload := some 1 })) .payloadTooLong = true := by decide
-- V-DEC-7
theorem test_tryDecode : nextSat (exec (.tryDecode phantom 10) State.reset) (fun t => decide (t.results =
    [.decoded (some phantomMessage)])) = true := by decide +kernel
-- V-DEC-10
theorem test_tryDecode_short :
    refusedWith (exec (.tryDecode [0x3A, 0x00, 0x02, 0x00, 0x02, 0x0D, 0x0A] 7) State.reset) .windowTooShort =
      true := by decide
-- V-CFG-1
theorem test_configure : nextSat (exec (.configure 0 .fixedLen 13 2 2 false) State.reset)
    (fun t => decide (t.insts = [(0, dec .fixedLen 13)])) = true := by decide
-- V-CFG-2
theorem test_configure_short :
    refusedWith (exec (.configure 0 .fixedLen 9 2 2 false) State.reset) .badLength = true := by decide
-- V-RXF-1
theorem test_receive_fixed :
    nextSat (exec (.receive 0 ([0x00, 0xFF, 0x0D, 0x0A, 0x55] ++ f13)) (sys .fixedLen 13))
      (fun t => decide ((t.inst 0).out = [m13] ∧ (t.inst 0).buf = [])) = true := by decide +kernel
-- V-RXV-3
theorem test_receive_variable :
    nextSat (exec (.receive 0 ([0x55, 0x3A, 0x0D, 0x0A, 0x3A] ++ f13)) (sys .variableLen 0))
      (fun t => decide ((t.inst 0).out = [m13] ∧ (t.inst 0).buf = [])) = true := by decide +kernel
-- R92
theorem test_reserved000 : refusedWith (exec .reserved000 State.reset) .reservedSelect = true := by decide
-- R180
theorem test_addDecoder : nextSat (exec (.addDecoder 0) (sys .fixedLen 13))
    (fun t => decide (t.decoders = [0])) = true := by decide
-- 95_test_vectors.md P4, chunk 1: both buffers hold the 10 bytes
theorem test_broadcast : nextSat (exec (.broadcast (f13.take 10))
    { State.reset with insts := [(0, dec .fixedLen 13), (1, dec .variableLen 0)], decoders := [0, 1] })
    (fun t => decide ((t.inst 0).buf = f13.take 10 ∧ (t.inst 1).buf = f13.take 10)) = true := by decide +kernel
-- R184
theorem test_send : nextSat (exec (.send f13) State.reset) (fun t => decide (t.sent = [f13])) = true := by decide
-- V-RXF-2 as one frame on the wire (log 12)
theorem test_frame : nextSat (exec (.frame 2 2 [0x68, 0x69] 0x9F95C04B) { sys .fixedLen 13 with decoders := [0] })
    (fun t => decide ((t.inst 0).out = [m13])) = true := by decide +kernel
-- V-OVF-1, the second chunk
theorem test_overflow : nextSat (exec (.receive 0 [0, 0, 0, 0, 0])
    { State.resetWith { Config.reference with bufCap := some 16 } with
      insts := [(0, { dec .variableLen 0 with buf := 0x3A :: List.replicate 11 0 })] })
    (fun t => (t.inst 0).ovf && (t.inst 0).bufLen == 12) = true := by decide
-- R8: with N_DEC = 2 there are the instances 0 and 1
theorem test_noSuchDecoder :
    let s := State.resetWith { Config.reference with nDec := some 2 }
    nextSat (exec (.addDecoder 1) s) (fun t => decide (t.decoders = [1])) = true ∧
    refusedWith (exec (.addDecoder 2) s) .noSuchDecoder = true := by decide
-- R186: "After it no further BROADCAST occurs"; R11: a refusal
theorem test_broadcast_after_failure :
    refusedWith (exec (.broadcast [0]) { State.reset with reader := .failed }) .readerStopped = true := by decide
-- R205, R227: during a RECEIVE of 0 made directly, a RECEIVE of 1 runs although both are registered
theorem test_other_decoder_during_direct_receive :
    let s : State := { State.reset with
      insts := [(0, dec .fixedLen 13), (1, dec .fixedLen 13)]
      decoders := [0, 1]
      inputs := [{ during := some { decoder := 0, feeds := [] }, act := .request [0x07, 0x01, 0x3A] }] }
    nextSat (step s) (fun t => decide ((t.inst 1).buf = [0x3A])) = true := by decide +kernel
-- R205: and is refused during a RECEIVE of 0 in a BROADCAST that feeds 1
theorem test_other_decoder_during_broadcast :
    let s : State := { State.reset with
      insts := [(0, dec .fixedLen 13), (1, dec .fixedLen 13)]
      decoders := [0, 1]
      inputs := [{ during := some { decoder := 0, feeds := [0, 1] }, act := .request [0x07, 0x01, 0x3A] }] }
    refusedWith (step s) .decoderBusy = true := by decide
-- the request of a table word is what the step runs
theorem test_withFetchWord : nextSat (step (State.reset.withFetchWord 8 0x01)) (fun t => t.acc == 0) = true := by
  decide

/-! ### Witnesses: states and operands that meet the hypotheses of the statements -/

theorem witness_CrcChainsAndIsLinear : ([0x31] : List Byte).length = ([0x80] : List Byte).length := rfl

theorem witness_AccBelongsToTheCrcEngine :
    (∃ t, step (pending (.crcByte 0) State.reset) = .next t ∧ t.acc ≠ (pending (.crcByte 0) State.reset).acc) ∧
    (∃ t, exec (.send []) State.reset = .next t) ∧ (∃ r, exec .reserved000 State.reset = .refused r) :=
  ⟨⟨_, rfl, by decide +kernel⟩, ⟨_, rfl⟩, _, rfl⟩

theorem witness_WindowFieldsAreBigEndian : 10 ≤ phantom.length := by decide

theorem witness_EncodeReturnsTheFrame :
    (∀ cap, State.reset.params.maxPayload = some cap → ([] : List Byte).length ≤ cap) ∧
    (∀ cap, (some 1 : Option Nat) = some cap → ([0x31] : List Byte).length ≤ cap) ∧
    ∃ cap, (some 1 : Option Nat) = some cap ∧ cap < ([0x31, 0x32] : List Byte).length :=
  ⟨fun _ h => (by cases h), fun _ h => (by cases h; decide), 1, rfl, by decide⟩

theorem witness_TryDecodeFollowsItsRule :
    ¬ (phantom.length = 10 ∧ 10 < 10) ∧ ¬ ((phantom.take 9).length = 10 ∧ 10 < 10) := by decide

theorem witness_ShortWindowsAreRefused :
    (phantom.take 9).length < 10 ∧ (phantom.take 9).length = 9 ∧ (phantom.take 9).length ≠ 10 := by decide

/-- Byte and bit positions of a 13-byte frame at both ends of each clause. -/
theorem witness_SingleBitFlipsAreDetected :
    let n := 11 + ([0x68, 0x69] : List Byte).length
    (0 < n ∧ n - 2 < n ∧ n - 1 < n ∧ 7 < 8) ∧ (1 ≤ 1 ∧ 1 < n - 6 ∧ 1 ≤ n - 7 ∧ n - 7 < n - 6) ∧
      (n - 6 ≤ n - 6 ∧ n - 6 < n - 2 ∧ n - 6 ≤ n - 3 ∧ n - 3 < n - 2) := by decide

theorem witness_BufferPrimitives :
    let d := { dec .fixedLen 13 with buf := f13 }
    (0 ≤ d.bufLen ∧ 13 ≤ d.bufLen) ∧ 3 + 10 ≤ d.bufLen := by decide

theorem witness_InstancesAreNumberedBelowNDec :
    let s : State := { State.resetWith { Config.reference with nDec := some 2 } with
      inputs := [{ during := none, act := .resetDecoder 2 }] }
    s.hasInst 2 = false ∧ s.hasInst 1 = true ∧ s.inputs = { during := none, act := .resetDecoder 2 } :: [] := by
  decide

theorem witness_ConfigureBindsOnce :
    (sys .fixedLen 13).hasInst 0 = true ∧ State.reset.hasInst 0 = true ∧
    ((sys .fixedLen 13).inst 0).configured = true ∧ (State.reset.inst 0).configured = false ∧ 9 < 10 ∧
    (∃ cap, (some 16 : Option Nat) = some cap ∧ cap < 17) ∧ (10 ≤ 10 ∧ ∀ cap, (none : Option Nat) = some cap → 10 ≤ cap) ∧
    ∀ cap, (some 16 : Option Nat) = some cap → 16 ≤ cap :=
  ⟨rfl, rfl, rfl, rfl, by decide, ⟨16, rfl, by decide⟩, ⟨by decide, fun _ h => (by cases h)⟩,
    fun _ h => (by cases h; decide)⟩

theorem witness_ReceiveRunsItsSteps :
    State.reset.hasInst 0 = true ∧ (sys .fixedLen 13).hasInst 0 = true ∧
    (State.reset.inst 0).configured = false ∧ ((sys .fixedLen 13).inst 0).configured = true ∧
    ((sys .fixedLen 13).inst 0).ovf = false ∧ (dec .fixedLen 13).raiseOverflow.ovf = true ∧
    (∃ cap, (some 16 : Option Nat) = some cap ∧ cap < (dec .fixedLen 13).bufLen + (List.replicate 17 (0 : Byte)).length) ∧
    ∀ cap, (some 16 : Option Nat) = some cap → (dec .fixedLen 13).bufLen + (List.replicate 16 (0 : Byte)).length ≤ cap :=
  ⟨rfl, rfl, rfl, rfl, rfl, rfl, ⟨16, rfl, by decide⟩, fun _ h => (by cases h; decide)⟩

theorem witness_ScanFixedIsItsLoop : 1 ≤ (dec .fixedLen 13).cfg.len := by decide

theorem witness_ScanVarIsItsLoop : 1 ≤ Config.minLen := by decide

theorem witness_DispatchFiltersByAddressAndType :
    (m13.address = (dec .fixedLen 13).cfg.target ∧ m13.type = (dec .fixedLen 13).cfg.type) ∧
    ({ m13 with address := 3 } : DecodedMessage).address ≠ (dec .fixedLen 13).cfg.target ∧
    ({ m13 with type := 3 } : DecodedMessage).type ≠ (dec .fixedLen 13).cfg.type := by decide

theorem witness_FixedReceiveLeavesLessThanAFrame :
    (dec .fixedLen 13).cfg.mode = .fixedLen ∧ 1 ≤ (dec .fixedLen 13).cfg.len ∧
      ((dec .fixedLen 13).receive none f13).ovf = false := by decide +kernel

theorem witness_FixedOutputIgnoresChunking :
    (dec .fixedLen 13).cfg.mode = .fixedLen ∧ 1 ≤ (dec .fixedLen 13).cfg.len ∧ (dec .fixedLen 13).ovf = false ∧
    fits none ((dec .fixedLen 13).bufLen + [f13.take 5, f13.drop 5].flatten.length) = true ∧
    fits (some 13) ((dec .fixedLen 13).bufLen + [f13.take 5, f13.drop 5].flatten.length) = true := by
  decide

theorem witness_EmptyChunkInvokesNoHandler :
    ((dec .fixedLen 13).cfg.mode = .fixedLen → 1 ≤ (dec .fixedLen 13).cfg.len) ∧
    ((dec .variableLen 0).cfg.mode = .fixedLen → 1 ≤ (dec .variableLen 0).cfg.len) ∧
    (dec .variableLen 0).ovf = false := by decide

/-- The garbage of V-RXF-7, with a spurious marker. -/
theorem witness_FixedResynchronizesAfterGarbage :
    let d := dec .fixedLen 13
    let g : List Byte := [0x3A, 0x11, 0x22]
    d.cfg.mode = .fixedLen ∧ d.ovf = false ∧ d.buf = [] ∧ f13.length = d.cfg.len ∧
    fits none (g.length + f13.length) = true ∧ structOk f13 d.cfg.len = true ∧
    (∀ i, i < g.length → structOk (((g ++ f13).drop i).take d.cfg.len) d.cfg.len = false) ∧
    (decodeWindow f13).address = d.cfg.target ∧ (decodeWindow f13).type = d.cfg.type := by decide +kernel

/-- The frame of V-RXF-4 and V-RXV-4 (address `0x0003`). -/
theorem witness_FilteredFramesAreConsumed :
    let f : List Byte := [0x3A, 0x00, 0x03, 0x00, 0x02, 0x68, 0x69, 0x66, 0x39, 0x47, 0xA5, 0x0D, 0x0A]
    let d := dec .fixedLen 13
    let e := dec .variableLen 0
    (d.ovf = false ∧ d.buf = [] ∧ e.ovf = false ∧ e.buf = [] ∧ fits none f.length = true ∧ 10 ≤ f.length) ∧
    structOk f f.length = true ∧ (decodeWindow f).address ≠ d.cfg.target ∧
    (d.cfg.mode = .fixedLen ∧ d.cfg.len = f.length) ∧
    (e.cfg.mode = .variableLen ∧ search 10 f = some ((0, f.length), decodeWindow f)) := by decide +kernel

theorem witness_DiagnosticsInfluenceNothing : (dec .fixedLen 13).cfg.verbose = false := rfl

/-- One buffer for each clause: V-DEC-3, V-RXF-5, V-RXF-4, V-RXF-9, a frame with a wrong CRC and another address,
one with a wrong CRC and another type, and F13. -/
theorem witness_VerboseFixedPassReports :
    let v := { (dec .fixedLen 13).cfg with verbose := true }
    let ty : List Byte := [0x3A, 0x00, 0x02, 0x00, 0x03, 0x68, 0x69, 0x6D, 0x95, 0x6A, 0x2D, 0x0D, 0x0A]
    let ad : List Byte := [0x3A, 0x00, 0x03, 0x00, 0x02, 0x68, 0x69, 0x66, 0x39, 0x47, 0xA5, 0x0D, 0x0A]
    let bad : List Byte := [0x3A, 0x00, 0x02, 0x00, 0x02, 0x69, 0x69, 0x9F, 0x95, 0xC0, 0x4B, 0x0D, 0x0A]
    let bty : List Byte := [0x3A, 0x00, 0x02, 0x00, 0x03, 0x69, 0x69, 0x9F, 0x95, 0xC0, 0x4B, 0x0D, 0x0A]
    let both : List Byte := [0x3A, 0x00, 0x03, 0x00, 0x02, 0x69, 0x69, 0x9F, 0x95, 0xC0, 0x4B, 0x0D, 0x0A]
    (v.verbose = true ∧ v.len ≤ f13.length) ∧ structFailure (0x3B :: f13.tail) 13 = some .startMarker ∧
    (structOk bad 13 = true ∧ (decodeWindow bad).crcCorrect = false ∧ (decodeWindow bad).address = v.target ∧
      (decodeWindow bad).type = v.type) ∧
    (structOk ad 13 = true ∧ (decodeWindow ad).crcCorrect = true ∧ (decodeWindow ad).address ≠ v.target) ∧
    (structOk ty 13 = true ∧ (decodeWindow ty).crcCorrect = true ∧ (decodeWindow ty).address = v.target ∧
      (decodeWindow ty).type ≠ v.type) ∧
    (structOk both 13 = true ∧ (decodeWindow both).crcCorrect = false ∧
      (decodeWindow both).address ≠ v.target) ∧
    (structOk bty 13 = true ∧ (decodeWindow bty).crcCorrect = false ∧ (decodeWindow bty).address = v.target ∧
      (decodeWindow bty).type ≠ v.type) ∧
    (structOk f13 13 = true ∧ (decodeWindow f13).crcCorrect = true ∧ (decodeWindow f13).address = v.target ∧
      (decodeWindow f13).type = v.type) := by decide +kernel

/-- Buffers for both clauses: ten bytes with no candidate accepted, and F13 behind one byte. -/
theorem witness_VerboseSearchReports :
    let v := { (dec .variableLen 0).cfg with verbose := true }
    v.verbose = true ∧ (search 10 (f13.take 10) = none ∧ 10 ≤ (f13.take 10).length ∧ 1 ≤ 10) ∧
    search 10 (0x3A :: f13) = some ((1, 13), m13) := by decide +kernel

theorem witness_RequestsWithoutMeaningAreRefused :
    (State.reset.hasInst 0 = true ∧ 9 < 10) ∧ (phantom.take 9).length < 10 ∧
    ∃ cap, (some 1 : Option Nat) = some cap ∧ cap < ([0x31, 0x32] : List Byte).length :=
  ⟨by decide, by decide, 1, rfl, by decide⟩

theorem witness_AddDecoderRegisters :
    (sys .fixedLen 13).hasInst 0 = true ∧ ((sys .fixedLen 13).inst 0).configured = true := ⟨rfl, rfl⟩

theorem witness_AddDecoderTakesAnUnconfiguredInstance :
    State.reset.hasInst 0 = true ∧ (State.reset.inst 0).configured = false := ⟨rfl, rfl⟩

theorem witness_BroadcastFeedsEveryDecoder :
    let s : State := { sys .fixedLen 13 with decoders := [0] }
    s.reader = .running ∧ ([0x3A] : List Byte) ≠ [] ∧ ∀ d ∈ s.decoders, (s.inst d).configured = true := by decide

theorem witness_BroadcastStopsWithoutReader :
    ({ State.reset with reader := .failed } : State).reader ≠ .running ∧ State.reset.reader = .running ∧
    ([0x3A] : List Byte) ≠ [] ∧
    ∃ d ∈ ({ State.reset with decoders := [0] } : State).decoders, (State.reset.inst d).configured = false := by
  decide

theorem witness_FrameOnTheWireReachesTheDecoders :
    let s : State := { sys .fixedLen 13 with decoders := [0] }
    (s.reader = .running ∧ ∀ d ∈ s.decoders, (s.inst d).configured = true) ∧
    ({ s with reader := .shutDown } : State).reader ≠ .running := by decide

theorem witness_StepRunsTheDecodedOperation :
    ((pending .crcRead State.reset).inputs = { during := none, act := .request [0x03] } :: [] ∧
      decode [0x03] = .ok .crcRead ∧ Instr.wf .crcRead = true) ∧
    (decode [0x0A] = .error (.unknownSelect 0x0A)) ∧ State.reset.inputs = [] := by decide

theorem witness_BlockResetSetsEveryValue_and_ResetsLeaveTheRestAlone :
    State.reset.hasInst 0 = true ∧
    ({ State.reset with inputs := [{ during := none, act := .reset }] } : State).inputs =
      { during := none, act := .reset } :: [] ∧
    ({ State.reset with inputs := [{ during := none, act := .resetDecoder 0 }] } : State).inputs =
      { during := none, act := .resetDecoder 0 } :: [] := ⟨rfl, rfl, rfl⟩

/-- A step on a configured, overflowed decoder that is no reset; and one that changes a buffer. -/
theorem witness_OnlyResetClearsADecoder :
    (let s := pending .crcRead { State.reset with insts := [(0, (dec .fixedLen 13).raiseOverflow)] }
     (∃ t, step s = .next t) ∧ ¬ s.resetsNext 0 ∧ (s.inst 0).ovf = true ∧ (s.inst 0).configured = true) ∧
    (let s := pending (.receive 0 [0x3A]) (sys .fixedLen 13)
     ∃ t, step s = .next t ∧ ¬ s.resetsNext 0 ∧ (t.inst 0).buf ≠ (s.inst 0).buf) :=
  ⟨⟨⟨_, rfl⟩, by simp [State.resetsNext, State.nextAct, pending], rfl, rfl⟩,
    _, rfl, by simp [State.resetsNext, State.nextAct, pending], by decide +kernel⟩

theorem witness_OverflowFlagIsSticky :
    let s : State := { sys .variableLen 0 with params := { Config.reference with bufCap := some 1 } }
    let p := pending (.receive 0 [0, 0]) s
    let q := pending .crcRead { State.reset with insts := [(0, (dec .fixedLen 13).raiseOverflow)] }
    (s.hasInst 0 = true ∧ (s.inst 0).configured = true ∧ s.params.bufCap = some 1 ∧ 1 < (s.inst 0).bufLen + ([0, 0] : List Byte).length) ∧
    (∃ t, step p = .next t ∧ (p.inst 0).ovf = false ∧ (t.inst 0).ovf = true) ∧
    (∃ t, step q = .next t ∧ ¬ q.resetsNext 0 ∧ (q.inst 0).ovf = true) :=
  ⟨by decide, ⟨_, rfl, by decide +kernel⟩, _, rfl, by simp [State.resetsNext, State.nextAct, pending], rfl⟩

theorem witness_InvocationsOnlyGrow :
    let s := pending (.receive 0 f13) (sys .fixedLen 13)
    ∃ t, step s = .next t ∧ ¬ s.resetsNext 0 :=
  ⟨_, rfl, by simp [State.resetsNext, State.nextAct, pending]⟩

theorem witness_ReaderEndLeavesDecodersAlone :
    (State.reset.reader = .running ∧
      ({ State.reset with inputs := [{ during := none, act := .transportFailure }] } : State).inputs =
        { during := none, act := .transportFailure } :: [] ∧
      ({ State.reset with inputs := [{ during := none, act := .shutdown }] } : State).inputs =
        { during := none, act := .shutdown } :: []) ∧
    ({ State.reset with
      reader := .failed
      inputs := [{ during := none, act := .shutdown }] } : State).inputs =
        { during := none, act := .shutdown } :: [] ∧
    ∃ t, step { State.reset with reader := .failed } = .next t :=
  ⟨⟨rfl, rfl, rfl⟩, rfl, _, rfl⟩

theorem witness_EmptyReadReachesNoDecoder :
    ({ State.reset with inputs := [{ during := none, act := .emptyRead }] } : State).inputs =
      { during := none, act := .emptyRead } :: [] := rfl

/-- During a RECEIVE of 0 in a BROADCAST that feeds 0 and 1: each act that is refused, and RECEIVE and reset of 2,
which are not. -/
theorem witness_NoReentryDuringReceive :
    let p : InProgress := { decoder := 0, feeds := [0, 1] }
    let s : State := { sys .fixedLen 13 with
      decoders := [0, 1]
      inputs := [{ during := some p, act := .request [0x07, 0x02, 0x3A] }] }
    s.inputs = { during := some p, act := .request [0x07, 0x02, 0x3A] } :: [] ∧
    (0 = p.decoder ∧ 1 ∈ p.feeds ∧ ¬ (2 = p.decoder ∨ 2 ∈ p.feeds) ∧ 1 ∈ s.decoders) ∧
    decode [0x07, 0x01, 0x3A] = .ok (.receive 1 [0x3A]) ∧ decode [0x07, 0x02, 0x3A] = .ok (.receive 2 [0x3A]) ∧
    decode [0x06, 0x00, 0x00, 0x02, 0x00, 0x02, 0x0D, 0x00, 0x00] = .ok (.configure 0 .fixedLen 13 2 2 false) ∧
    decode [0x11, 0x3A] = .ok (.broadcast [0x3A]) ∧ decode [0x03] = .ok .crcRead := by decide

theorem witness_ParametersNeverChange : ∃ t, step (pending (.send []) State.reset) = .next t := ⟨_, rfl⟩

theorem witness_DecodeEncodeRoundTrip :
    Instr.wf (.broadcast [0x3A]) = true ∧ Instr.wf (.frame 2 2 [0x68, 0x69] 0x9F95C04B) = true := by decide

theorem witness_DecodedOperationsAreWellFormed : decode [0x11, 0x3A] = .ok (.broadcast [0x3A]) := by decide

theorem witness_StepKeepsInvariant :
    let s := pending (.receive 0 f13) (sys .fixedLen 13)
    s.ok = true ∧ ∃ t, step s = .next t := ⟨by decide, _, rfl⟩

end Sys2Proof.Tests
end

section
/-! The invocations and the buffer that the scans of RECEIVE leave (42_stream_decoder.md R154 to R157, R160;
60_exceptions.md R203). -/

namespace Sys2Proof.Machine

/-- What R203 says of one invocation, as a property. -/
theorem messageOk_iff {cfg : Cfg} {m : DecodedMessage} :
    messageOk cfg m = true ↔ m.address = cfg.target ∧ m.type = cfg.type ∧
      m.crcCorrect = decide (m.crcComputed = m.crcReceived) ∧
      (cfg.mode = .variableLen → m.crcCorrect = true) := by
  unfold messageOk
  cases cfg.mode <;> simp [and_assoc]

/-- The flag of a message of TRY_DECODE is the comparison of its CRCs (R22). -/
theorem tryDecode_crcCorrect {w : List Byte} {e : Nat} {m : DecodedMessage} (h : tryDecode w e = some m) :
    m.crcCorrect = decide (m.crcComputed = m.crcReceived) := by
  obtain ⟨_, rfl⟩ := tryDecode_eq_some.1 h
  rfl

/-- The search accepts a candidate that decodes with a correct CRC, and no other (R155). -/
theorem accepted_eq_some {buf : List Byte} {c : Nat × Nat} {m : DecodedMessage} :
    accepted buf c = some m ↔ tryDecode (slice buf c.1 (c.1 + c.2)) c.2 = some m ∧ m.crcCorrect = true := by
  unfold accepted
  cases tryDecode (slice buf c.1 (c.1 + c.2)) c.2 with
  | none => simp
  | some m' =>
    simp only [Option.ite_none_right_eq_some, Option.some.injEq]
    exact ⟨fun ⟨hc, he⟩ => ⟨he, he ▸ hc⟩, fun ⟨he, hc⟩ => ⟨he ▸ hc, he⟩⟩

/-- `d'` has the invocations of `d` and after them only such as R203 allows a decoder with registers `cfg`. -/
def HandsOver (cfg : Cfg) (d d' : Decoder) : Prop :=
  ∃ ms, d'.out = d.out ++ ms ∧ ∀ m ∈ ms, messageOk cfg m = true

theorem HandsOver.of_out_eq {cfg : Cfg} {d d' : Decoder} (h : d'.out = d.out) : HandsOver cfg d d' :=
  ⟨[], by simp [h]⟩

theorem HandsOver.trans {cfg : Cfg} {a b c : Decoder} (h : HandsOver cfg a b) (g : HandsOver cfg b c) :
    HandsOver cfg a c := by
  obtain ⟨ms, hb, hms⟩ := h
  obtain ⟨ns, hc, hns⟩ := g
  refine ⟨ms ++ ns, by rw [hc, hb, List.append_assoc], fun m hm => ?_⟩
  exact (List.mem_append.1 hm).elim (hms m) (hns m)

/-- DISPATCH appends the message when address and type match (R156). -/
theorem dispatch_out (d : Decoder) (m : DecodedMessage) :
    (d.dispatch m).out =
      if m.address = d.cfg.target ∧ m.type = d.cfg.type then d.out ++ [m] else d.out := by
  unfold Decoder.dispatch
  split <;> simp

/-- A window decoded, reported, dispatched and consumed: the common work of both scans (R154, R155). -/
theorem handsOver_consume {d : Decoder} {w : List Byte} {e : Nat} {m : DecodedMessage}
    (es : List DiagEvent) (k : Nat) (h : tryDecode w e = some m)
    (hvar : d.cfg.mode = .variableLen → m.crcCorrect = true) :
    HandsOver d.cfg d (((d.report es).dispatch m).dropFront k) := by
  by_cases hm : m.address = d.cfg.target ∧ m.type = d.cfg.type
  · refine ⟨[m], by simp [dispatch_out, hm], ?_⟩
    simpa using messageOk_iff.2 ⟨hm.1, hm.2, tryDecode_crcCorrect h, hvar⟩
  · exact .of_out_eq (by simp [dispatch_out, hm])

theorem handsOver_fixedPass {d : Decoder} (hf : d.cfg.mode = .fixedLen) :
    HandsOver d.cfg d d.fixedPass := by
  unfold Decoder.fixedPass
  split
  · rename_i m hm
    exact handsOver_consume _ _ hm (by simp [hf])
  · exact .of_out_eq (by simp)

theorem handsOver_scanFixedUpTo (fuel : Nat) {d : Decoder} (hf : d.cfg.mode = .fixedLen) :
    HandsOver d.cfg d (Decoder.scanFixedUpTo fuel d) := by
  induction fuel generalizing d with
  | zero => exact .of_out_eq rfl
  | succ fuel ih =>
    unfold Decoder.scanFixedUpTo
    split
    · exact .of_out_eq rfl
    · have hcfg : d.fixedPass.cfg = d.cfg := (sameRegs_fixedPass d).cfg
      have hrest := ih (d := d.fixedPass) (hcfg ▸ hf)
      exact (handsOver_fixedPass hf).trans (hcfg ▸ hrest)

theorem handsOver_scanVarUpTo (minLen fuel : Nat) (d : Decoder) :
    HandsOver d.cfg d (Decoder.scanVarUpTo minLen fuel d) := by
  induction fuel generalizing d with
  | zero => exact .of_out_eq rfl
  | succ fuel ih =>
    unfold Decoder.scanVarUpTo
    split
    · exact .of_out_eq rfl
    · rcases search_cases minLen d.buf with ⟨hs, _⟩ | ⟨c, m, _, _, hs, _, hacc, _⟩
      · simp only [hs]
        exact .of_out_eq (by simp)
      · obtain ⟨hm, hcrc⟩ := accepted_eq_some.1 hacc
        simp only [hs]
        have hrest := ih (((d.report (searchEvents minLen d.buf)).dispatch m).dropFront (c.1 + c.2))
        rw [dropFront_cfg, dispatch_cfg, report_cfg] at hrest
        exact (handsOver_consume _ _ hm fun _ => hcrc).trans hrest

theorem handsOver_scan (d : Decoder) : HandsOver d.cfg d d.scan := by
  unfold Decoder.scan
  split
  · rename_i hf
    exact handsOver_scanFixedUpTo _ hf
  · exact handsOver_scanVarUpTo _ _ d

/-- RECEIVE keeps the invocations of before, and those it adds are as R203 says. -/
theorem handsOver_receive (cap : Option Nat) (c : List Byte) (d : Decoder) :
    HandsOver d.cfg d (d.receive cap c) := by
  rcases receive_cases cap c d with ⟨_, h⟩ | ⟨_, _, h⟩ | ⟨_, _, h⟩
  · exact .of_out_eq (by rw [h])
  · exact .of_out_eq (by rw [h, raiseOverflow_out])
  · rw [h]
    exact HandsOver.trans (.of_out_eq rfl) (handsOver_scan (d.append c).resync)

/-- With as many passes as there are bytes, SCAN_FIXED leaves less than a frame (R154, R159). -/
theorem scanFixedUpTo_length_lt {fuel : Nat} {d : Decoder} (hL : 1 ≤ d.cfg.len)
    (hfuel : d.buf.length ≤ fuel) : (Decoder.scanFixedUpTo fuel d).buf.length < d.cfg.len := by
  induction fuel generalizing d with
  | zero =>
    show d.buf.length < d.cfg.len
    omega
  | succ fuel ih =>
    unfold Decoder.scanFixedUpTo
    split
    · assumption
    · rename_i hlong
      have hcfg : d.fixedPass.cfg = d.cfg := (sameRegs_fixedPass d).cfg
      have hshort := fixedPass_shorter hL (by simpa using hlong)
      rw [← hcfg] at hL ⊢
      exact ih hL (by omega)

/-- RECEIVE of a FIXED decoder that holds less than a frame leaves less than a frame (R160). -/
theorem receive_fixed_length_lt (cap : Option Nat) (c : List Byte) {d : Decoder}
    (hf : d.cfg.mode = .fixedLen) (hlt : d.buf.length < d.cfg.len) :
    (d.receive cap c).buf.length < d.cfg.len := by
  rcases receive_cases cap c d with ⟨_, h⟩ | ⟨_, _, h⟩ | ⟨_, _, h⟩
  · rwa [h]
  · rwa [h]
  · have hscan : ((d.append c).resync).scan = ((d.append c).resync).scanFixed := by
      unfold Decoder.scan
      simp [hf]
    rw [h, hscan]
    exact scanFixedUpTo_length_lt (d := (d.append c).resync) (Nat.one_le_of_lt hlt) le_rfl

/-- RECEIVE sets `OVF` only with a finite capacity (R32, R166). -/
theorem receive_ovf_of_unbounded (c : List Byte) (d : Decoder) : (d.receive none c).ovf = d.ovf := by
  rcases receive_cases none c d with ⟨_, h⟩ | ⟨_, hfit, _⟩ | ⟨_, _, h⟩
  · rw [h]
  · cases hfit
  · rw [h, (sameRegs_scan _).ovf]
    rfl

end Sys2Proof.Machine
end

section
/-! The invariant of one decoder: reset has it, CONFIGURE and RECEIVE keep it (10_state.md R27, R30 to R32). -/

namespace Sys2Proof.Machine

@[simp] theorem fits_zero (cap : Option Nat) : fits cap 0 = true := fits_iff.2 fun _ _ => Nat.zero_le _

/-- The invariant of a configured decoder. -/
theorem decoder_ok_of_configured_iff {cap : Option Nat} {d : Decoder} (hc : d.configured = true) :
    d.ok cap = true ↔ fits cap d.bufLen = true ∧ legalLength cap d.cfg.mode d.cfg.len = true ∧
      (d.cfg.mode = .fixedLen → d.bufLen < d.cfg.len) ∧ (∀ m ∈ d.out, messageOk d.cfg m = true) ∧
      (cap = none → d.ovf = false) := by
  unfold Decoder.ok
  cases d.cfg.mode <;> cases cap <;> simp [hc, and_assoc, -bufLen_eq]

/-- The invariant of an unconfigured decoder: it has received nothing. -/
theorem decoder_ok_of_unconfigured_iff {cap : Option Nat} {d : Decoder} (hc : d.configured = false) :
    d.ok cap = true ↔ d.buf = [] ∧ d.ovf = false ∧ d.out = [] := by
  unfold Decoder.ok
  simp only [hc, bufLen_eq]
  constructor
  · simp +contextual
  · rintro ⟨hbuf, hovf, hout⟩
    simp [hbuf, hovf, hout]

theorem decoder_ok_reset (cap : Option Nat) : Decoder.reset.ok cap = true :=
  (decoder_ok_of_unconfigured_iff rfl).2 ⟨rfl, rfl, rfl⟩

/-- CONFIGURE with a legal length of a decoder that has received nothing (R150). -/
theorem decoder_ok_configure {cap : Option Nat} {d : Decoder} {cfg : Cfg} (h : d.ok cap = true)
    (hc : d.configured = false) (hl : legalLength cap cfg.mode cfg.len = true) :
    Decoder.ok cap { d with cfg := cfg, configured := true } = true := by
  obtain ⟨hbuf, hovf, hout⟩ := (decoder_ok_of_unconfigured_iff hc).1 h
  refine (decoder_ok_of_configured_iff rfl).2 ⟨?_, hl, fun hf => ?_, by simp [hout], fun _ => hovf⟩
  · rw [bufLen_eq, hbuf]
    exact fits_zero cap
  · rw [hf] at hl
    obtain ⟨hten, _⟩ := legalLength_fixed_iff.1 hl
    simp only [bufLen_eq, hbuf, List.length_nil]
    omega

/-- RECEIVE of a configured decoder (R151). -/
theorem decoder_ok_receive {cap : Option Nat} {d : Decoder} (c : List Byte) (h : d.ok cap = true)
    (hc : d.configured = true) : (d.receive cap c).ok cap = true := by
  obtain ⟨hfits, hl, hlt, hout, hovf⟩ := (decoder_ok_of_configured_iff hc).1 h
  rw [decoder_ok_of_configured_iff (by simpa using hc)]
  simp only [receive_cfg]
  refine ⟨receive_fits c hfits, hl, fun hf => receive_fixed_length_lt cap c hf (hlt hf), ?_, ?_⟩
  · obtain ⟨ms, hrec, hms⟩ := handsOver_receive cap c d
    rw [hrec]
    exact fun m hm => (List.mem_append.1 hm).elim (hout m) (hms m)
  · rintro rfl
    rw [receive_ovf_of_unbounded, hovf rfl]

end Sys2Proof.Machine
end

section
/-! The invariant of the machine: every operation, every act and so every step keeps it. -/

namespace Sys2Proof.Machine

theorem state_ok_iff (s : State) :
    s.ok = true ↔ instWf s.insts = true ∧
      (∀ p ∈ s.insts, s.hasInst p.1 = true ∧ p.2.ok s.params.bufCap = true) ∧
      ∀ d ∈ s.decoders, s.hasInst d = true := by
  simp [State.ok, and_assoc]

/-! What the invariant does not speak of. -/

section Unmentioned
variable (s : State)

@[simp] theorem state_ok_setAcc (v : Word) : (s.setAcc v).ok = s.ok := rfl
@[simp] theorem state_ok_giveResult (r : Result) : (s.giveResult r).ok = s.ok := rfl
@[simp] theorem state_ok_sent (b : List (List Byte)) : State.ok { s with sent := b } = s.ok := rfl
@[simp] theorem state_ok_reader (r : Reader) : State.ok { s with reader := r } = s.ok := rfl
@[simp] theorem state_ok_inputs (l : List Input) : State.ok { s with inputs := l } = s.ok := rfl

end Unmentioned

/-- Every decoder of a state that meets the invariant is `ok`, listed or not. -/
theorem inst_ok {s : State} (h : s.ok = true) (n : Nat) : (s.inst n).ok s.params.bufCap = true := by
  obtain ⟨_, hinsts, _⟩ := (state_ok_iff s).1 h
  exact inst_of_all (P := fun d => d.ok s.params.bufCap = true) (decoder_ok_reset _)
    (fun p hp => (hinsts p hp).2) n

/-- The one rule for a write to the table of decoders. -/
theorem state_ok_setInst {s : State} {n : Nat} {d : Decoder} (h : s.ok = true) (hn : s.hasInst n = true)
    (hd : d.ok s.params.bufCap = true) : (s.setInst n d).ok = true := by
  obtain ⟨hwf, hinsts, hdecs⟩ := (state_ok_iff s).1 h
  refine (state_ok_iff _).2 ⟨instWf_instSet n d hwf, fun p hp => ?_, hdecs⟩
  rcases mem_instSet hp with rfl | hp
  · exact ⟨hn, hd⟩
  · exact hinsts p hp

theorem state_ok_addDecoder {s : State} {d : Nat} (h : s.ok = true) (hd : s.hasInst d = true) :
    State.ok { s with decoders := s.decoders ++ [d] } = true := by
  obtain ⟨hwf, hinsts, hdecs⟩ := (state_ok_iff s).1 h
  refine (state_ok_iff _).2 ⟨hwf, hinsts, fun e he => ?_⟩
  rcases List.mem_append.1 he with he | he
  · exact hdecs e he
  · exact List.mem_singleton.1 he ▸ hd

theorem state_ok_resetBlock {s : State} (h : s.ok = true) : s.resetBlock.ok = true := by
  obtain ⟨_, _, hdecs⟩ := (state_ok_iff s).1 h
  exact (state_ok_iff _).2 ⟨rfl, by simp, hdecs⟩

theorem state_ok_receive {s : State} {d : Nat} (c : List Byte) (h : s.ok = true) (hd : s.hasInst d = true)
    (hc : (s.inst d).configured = true) :
    (s.setInst d ((s.inst d).receive s.params.bufCap c)).ok = true :=
  state_ok_setInst h hd (decoder_ok_receive c (inst_ok h d) hc)

/-- A RECEIVE configures no decoder and unconfigures none. -/
theorem configured_setInst_receive (s : State) (d e : Nat) (cap : Option Nat) (c : List Byte) :
    ((s.setInst d ((s.inst d).receive cap c)).inst e).configured = (s.inst e).configured := by
  by_cases he : e = d
  · subst he
    simp
  · rw [inst_setInst_other s _ he]

/-- BROADCAST's work, one decoder at a time (R182). -/
theorem receiveEach_cons (c : List Byte) (d : Nat) (ds : List Nat) (s : State) :
    receiveEach c (d :: ds) s = receiveEach c ds (s.setInst d ((s.inst d).receive s.params.bufCap c)) := rfl

theorem state_ok_receiveEach {s : State} {ds : List Nat} (c : List Byte) (h : s.ok = true)
    (hds : ∀ d ∈ ds, s.hasInst d = true ∧ (s.inst d).configured = true) :
    (receiveEach c ds s).ok = true := by
  induction ds generalizing s with
  | nil => exact h
  | cons d ds ih =>
    obtain ⟨⟨hd, hc⟩, hrest⟩ := List.forall_mem_cons.1 hds
    rw [receiveEach_cons]
    refine ih (state_ok_receive c h hd hc) fun e he => ?_
    rw [setInst_hasInst, configured_setInst_receive]
    exact hrest e he

theorem state_ok_forwardChunk {c : List Byte} {s t : State} (h : s.ok = true)
    (ht : forwardChunk c s = .next t) : t.ok = true := by
  rcases forwardChunk_cases ht with ⟨_, rfl⟩ | ⟨_, hconf, rfl⟩
  · exact h
  · obtain ⟨_, _, hdecs⟩ := (state_ok_iff s).1 h
    exact state_ok_receiveEach c h fun d hd => ⟨hdecs d hd, hconf d hd⟩

theorem exec_keeps_ok {i : Instr} {s t : State} (h : s.ok = true) (ht : exec i s = .next t) :
    t.ok = true := by
  rcases exec_cases ht with ⟨v, _, rfl⟩ | ⟨r, _, rfl⟩ | ⟨bs, v, _, rfl⟩ |
    ⟨d, mode, len, ty, tg, v, _, hd, hc, hl, rfl⟩ | ⟨d, c, _, hd, hc, rfl⟩ | ⟨d, _, hd, rfl⟩ |
    ⟨b, _, rfl⟩ | ⟨c, _, _, hfwd⟩ | ⟨_, _, rfl⟩
  · simpa using h
  · simpa using h
  · simpa using h
  · exact state_ok_setInst h hd (decoder_ok_configure (inst_ok h d) hc hl)
  · exact state_ok_receive c h hd hc
  · exact state_ok_addDecoder h hd
  · simpa using h
  · exact state_ok_forwardChunk h hfwd
  · exact h

theorem runAct_keeps_ok {a : Act} {s t : State} (h : s.ok = true) (ht : runAct a s = .next t) :
    t.ok = true := by
  rcases runAct_cases ht with ⟨_, i, _, _, hi⟩ | ⟨_, rfl⟩ | ⟨d, _, hd, rfl⟩ | ⟨_, r, rfl⟩
  · exact exec_keeps_ok h hi
  · exact state_ok_resetBlock h
  · exact state_ok_setInst h hd (decoder_ok_reset _)
  · simpa using h

end Sys2Proof.Machine

open Sys2Proof Sys2Proof.Machine

/-- Settles O60: a step is idle or takes one input, and each act keeps the invariant. -/
theorem stepKeepsInvariant : Obligations.StepKeepsInvariant := by
  intro s t h ht
  rcases step_cases ht with ⟨_, rfl⟩ | ⟨x, rest, _, hact, _⟩
  · exact h
  · exact runAct_keeps_ok (s := { s with inputs := rest }) (by simpa using h) hact
end

section
/-! The parameters of R8: no operation and no act changes them, and `N_DEC` bounds the instances (log 3, log 6). -/

namespace Sys2Proof.Machine

@[simp] theorem receiveEach_params (c : List Byte) (ds : List Nat) (s : State) :
    (receiveEach c ds s).params = s.params := by
  have h := congrArg State.params (receiveEach_frame c ds s)
  exact h

theorem forwardChunk_params {c : List Byte} {s t : State} (ht : forwardChunk c s = .next t) :
    t.params = s.params := by
  rcases forwardChunk_cases ht with ⟨_, rfl⟩ | ⟨_, _, rfl⟩
  · rfl
  · exact receiveEach_params c s.decoders s

theorem exec_params {i : Instr} {s t : State} (ht : exec i s = .next t) : t.params = s.params := by
  rcases exec_cases ht with ⟨_, _, rfl⟩ | ⟨_, _, rfl⟩ | ⟨_, _, _, rfl⟩ |
    ⟨_, _, _, _, _, _, _, _, _, _, rfl⟩ | ⟨_, _, _, _, _, rfl⟩ | ⟨_, _, _, rfl⟩ |
    ⟨_, _, rfl⟩ | ⟨_, _, _, hfwd⟩ | ⟨_, _, rfl⟩
  any_goals rfl
  exact forwardChunk_params hfwd

theorem runAct_params {a : Act} {s t : State} (ht : runAct a s = .next t) : t.params = s.params := by
  rcases runAct_cases ht with ⟨_, _, _, _, hi⟩ | ⟨_, rfl⟩ | ⟨_, _, _, rfl⟩ | ⟨_, _, rfl⟩
  · exact exec_params hi
  · rfl
  · rfl
  · rfl

theorem step_params {s t : State} (ht : step s = .next t) : t.params = s.params := by
  rcases step_cases ht with ⟨_, rfl⟩ | ⟨_, rest, _, hact, _⟩
  · rfl
  · exact runAct_params (s := { s with inputs := rest }) hact

/-- A step with an input pending takes it (log 21). -/
theorem step_of_inputs_cons {s : State} {x : Input} {rest : List Input} (h : s.inputs = x :: rest) :
    step s = runInput x { s with inputs := rest } := by
  unfold step
  rw [h]

end Sys2Proof.Machine

open Sys2Proof Sys2Proof.Machine

/-- Settles O55: `core` is by definition the machine at the reference values, and `step_params` follows the
operations. -/
theorem parametersNeverChange : Obligations.ParametersNeverChange :=
  ⟨fun _ => ⟨rfl, rfl, rfl⟩, rfl, fun _ _ => step_params⟩

/-- Settles O19: each of the four requests first asks whether `N_DEC` admits the number. -/
theorem instancesAreNumberedBelowNDec : Obligations.InstancesAreNumberedBelowNDec := by
  refine fun d s => ⟨hasInst_iff s d, fun hd => ⟨fun mode len ty tg v => ?_, fun c => ?_, ?_, fun rest hin => ?_⟩⟩
  · simp [exec, execConfigure, hd]
  · simp [exec, execReceive, hd]
  · simp [exec, execAddDecoder, hd]
  · have hd' : State.hasInst { s with inputs := rest } d = false := hd
    simp [step_of_inputs_cons hin, runInput, runAct, hd']
end

section
/-! What one step can do: the operation it runs, a reset, or an event of the environment; and what that does to one
decoder (10_state.md R38, 70_reset_and_hazards.md R220, R221). -/

namespace Sys2Proof.Machine

theorem nextAct_of_inputs_cons {s : State} {x : Input} {rest : List Input} (h : s.inputs = x :: rest) :
    s.nextAct = some x.act := by
  simp [State.nextAct, h]

theorem nextInstr_of_request {s : State} {bytes : List Byte} {i : Instr}
    (ha : s.nextAct = some (.request bytes)) (hi : decode bytes = .ok i) : s.nextInstr = some i := by
  simp [State.nextInstr, ha, hi]

/-- A step that answers a next state, by what was pending (log 21). -/
theorem step_act_cases {s t : State} (ht : step s = .next t) :
    (∃ i rest, s.nextInstr = some i ∧ exec i { s with inputs := rest } = .next t) ∨
    (s.nextAct = some .reset ∧ ∃ rest, t = { s with inputs := rest }.resetBlock) ∨
    (∃ d rest, s.nextAct = some (.resetDecoder d) ∧ t = { s with inputs := rest }.resetInst d) ∨
    ∃ r rest, t = { s with reader := r, inputs := rest } := by
  rcases step_cases ht with ⟨_, rfl⟩ | ⟨x, rest, hin, hact, _⟩
  · exact .inr (.inr (.inr ⟨_, _, rfl⟩))
  · have hnext := nextAct_of_inputs_cons hin
    rcases runAct_cases hact with ⟨bytes, i, hx, hi, hexec⟩ | ⟨hx, rfl⟩ | ⟨d, hx, _, rfl⟩ | ⟨_, r, rfl⟩
    · exact .inl ⟨i, rest, nextInstr_of_request (hx ▸ hnext) hi, hexec⟩
    · exact .inr (.inl ⟨hx ▸ hnext, rest, rfl⟩)
    · exact .inr (.inr (.inl ⟨d, rest, hx ▸ hnext, rfl⟩))
    · exact .inr (.inr (.inr ⟨r, rest, rfl⟩))

/-- The operation `i` gives decoder `d` the chunk `c`: its own RECEIVE, or, `d` being registered, a BROADCAST or a
frame on the wire (R151, R182; log 12). -/
def Feeds (i : Instr) (s : State) (d : Nat) (c : List Byte) : Prop :=
  i = .receive d c ∨ d ∈ s.decoders ∧
    (i = .broadcast c ∨ ∃ a ty p crc, i = .frame a ty p crc ∧ c = frameBytes a ty p crc)

/-- What an operation can do to decoder `d`: nothing, its one CONFIGURE, or RECEIVEs of the chunk it is fed. -/
theorem exec_inst_cases {i : Instr} {s t : State} (ht : exec i s = .next t) (d : Nat) :
    t.inst d = s.inst d ∨
    (∃ cfg : Cfg, i = .configure d cfg.mode cfg.len cfg.type cfg.target cfg.verbose ∧
      (s.inst d).configured = false ∧ t.inst d = { s.inst d with cfg := cfg, configured := true }) ∨
    ∃ c k, Feeds i s d c ∧ t.inst d = (fun x => x.receive s.params.bufCap c)^[k] (s.inst d) := by
  rcases exec_cases ht with ⟨_, _, rfl⟩ | ⟨_, _, rfl⟩ | ⟨_, _, _, rfl⟩ |
    ⟨e, mode, len, ty, tg, v, rfl, _, hc, _, rfl⟩ | ⟨e, c, rfl, _, _, rfl⟩ | ⟨_, _, _, rfl⟩ |
    ⟨_, _, rfl⟩ | ⟨c, hi, _, hfwd⟩ | ⟨_, _, rfl⟩
  · exact .inl rfl
  · exact .inl rfl
  · exact .inl rfl
  · by_cases hd : d = e
    · subst hd
      exact .inr (.inl ⟨_, rfl, hc, inst_setInst_same ..⟩)
    · exact .inl (inst_setInst_other s _ hd)
  · by_cases hd : d = e
    · subst hd
      exact .inr (.inr ⟨c, 1, .inl rfl, inst_setInst_same ..⟩)
    · exact .inl (inst_setInst_other s _ hd)
  · exact .inl rfl
  · exact .inl rfl
  · rcases forwardChunk_cases hfwd with ⟨_, rfl⟩ | ⟨_, _, rfl⟩
    · exact .inl rfl
    · by_cases hd : d ∈ s.decoders
      · exact .inr (.inr ⟨c, _, .inr ⟨hd, hi⟩, receiveEach_inst c s.decoders s d⟩)
      · exact .inl (by rw [receiveEach_inst, List.count_eq_zero_of_not_mem hd, Function.iterate_zero_apply])
  · exact .inl rfl

/-- What a step can do to decoder `d`: what its operation does, or reset it, alone or with the whole block. -/
theorem step_inst_cases {s t : State} (ht : step s = .next t) (d : Nat) :
    t.inst d = s.inst d ∨
    (∃ cfg : Cfg, s.nextInstr = some (.configure d cfg.mode cfg.len cfg.type cfg.target cfg.verbose) ∧
      (s.inst d).configured = false ∧ t.inst d = { s.inst d with cfg := cfg, configured := true }) ∨
    (∃ i c k, s.nextInstr = some i ∧ Feeds i s d c ∧
      t.inst d = (fun x => x.receive s.params.bufCap c)^[k] (s.inst d)) ∨
    (s.resetsNext d ∧ t.inst d = Decoder.reset) := by
  rcases step_act_cases ht with ⟨i, rest, hi, hexec⟩ | ⟨ha, rest, rfl⟩ | ⟨e, rest, ha, rfl⟩ | ⟨_, _, rfl⟩
  · rcases exec_inst_cases hexec d with hsame | ⟨cfg, rfl, hc, hd⟩ | ⟨c, k, hf, hd⟩
    · exact .inl hsame
    · exact .inr (.inl ⟨cfg, hi, hc, hd⟩)
    · exact .inr (.inr (.inl ⟨i, c, k, hi, hf, hd⟩))
  · exact .inr (.inr (.inr ⟨.inl ha, resetBlock_inst ..⟩))
  · by_cases hd : d = e
    · subst hd
      exact .inr (.inr (.inr ⟨.inr ha, inst_setInst_same ..⟩))
    · exact .inl (inst_setInst_other { s with inputs := rest } _ hd)
  · exact .inl rfl

end Sys2Proof.Machine
end

section
/-! The accumulator: who writes it, and who sees its value (10_state.md R21). -/

namespace Sys2Proof.Machine

@[simp] theorem receiveEach_acc (c : List Byte) (ds : List Nat) (s : State) : (receiveEach c ds s).acc = s.acc := by
  have h := congrArg State.acc (receiveEach_frame c ds s)
  exact h

theorem forwardChunk_acc {c : List Byte} {s t : State} (ht : forwardChunk c s = .next t) : t.acc = s.acc := by
  rcases forwardChunk_cases ht with ⟨_, rfl⟩ | ⟨_, _, rfl⟩
  · rfl
  · exact receiveEach_acc c s.decoders s

/-- Only CRC.INIT, CRC.BYTE and CRC32 write `ACC` (R111, R112, R97). -/
theorem exec_acc_cases {i : Instr} {s t : State} (ht : exec i s = .next t) :
    t.acc = s.acc ∨ (∃ v, i = .crcInit v) ∨ (∃ b, i = .crcByte b) ∨ ∃ bytes v, i = .crc32 bytes v := by
  rcases exec_cases ht with ⟨v, hi | ⟨b, hi, _⟩, _⟩ | ⟨_, _, rfl⟩ | ⟨bytes, v, hi, _⟩ |
    ⟨_, _, _, _, _, _, _, _, _, _, rfl⟩ | ⟨_, _, _, _, _, rfl⟩ | ⟨_, _, _, rfl⟩ |
    ⟨_, _, rfl⟩ | ⟨_, _, _, hfwd⟩ | ⟨_, _, rfl⟩
  · exact .inr (.inl ⟨v, hi⟩)
  · exact .inr (.inr (.inl ⟨b, hi⟩))
  · exact .inl rfl
  · exact .inr (.inr (.inr ⟨bytes, v, hi⟩))
  · exact .inl rfl
  · exact .inl rfl
  · exact .inl rfl
  · exact .inl rfl
  · exact .inl (forwardChunk_acc hfwd)
  · exact .inl rfl

/-- Two outcomes that differ in `ACC` only: the same refusal, or next states equal up to `ACC`. -/
def AgreeUpToAcc (o o' : Host.Outcome State Fault Refusal) : Prop :=
  (∀ t, o = .next t → ∃ u, o' = .next (t.setAcc u)) ∧ ∀ r, o = .refused r → o' = .refused r

theorem agreeUpToAcc_next {s t : State} {u : Word} (h : t = s.setAcc u) : AgreeUpToAcc (.next s) (.next t) := by
  refine ⟨fun s' hs => ?_, nofun⟩
  cases hs
  exact ⟨u, h ▸ rfl⟩

theorem agreeUpToAcc_refused (r : Refusal) : AgreeUpToAcc (.refused r) (.refused r) :=
  ⟨nofun, fun _ hr => hr⟩

/-- A guard that does not look at `ACC`. -/
theorem agreeUpToAcc_ite {p : Prop} [Decidable p] {a b a' b' : Host.Outcome State Fault Refusal}
    (ha : AgreeUpToAcc a a') (hb : AgreeUpToAcc b b') :
    AgreeUpToAcc (if p then a else b) (if p then a' else b') := by
  split
  · exact ha
  · exact hb

theorem receiveEach_setAcc (c : List Byte) (ds : List Nat) (s : State) (v : Word) :
    receiveEach c ds (s.setAcc v) = (receiveEach c ds s).setAcc v := by
  induction ds generalizing s with
  | nil => rfl
  | cons d ds ih => exact ih (s.setInst d ((s.inst d).receive s.params.bufCap c))

theorem forwardChunk_agreeUpToAcc (c : List Byte) (s : State) (v : Word) :
    AgreeUpToAcc (forwardChunk c s) (forwardChunk c (s.setAcc v)) :=
  agreeUpToAcc_ite (agreeUpToAcc_next (u := v) rfl)
    (agreeUpToAcc_ite (agreeUpToAcc_next (receiveEach_setAcc c s.decoders s v)) (agreeUpToAcc_refused _))

/-- Only CRC.BYTE and CRC.READ see the value of `ACC` (R112, R113): CRC.INIT and CRC32 write it first, and no other
operation looks at it. -/
theorem exec_agreeUpToAcc (i : Instr) (s : State) (v : Word) (hbyte : ∀ b, i ≠ .crcByte b)
    (hread : i ≠ .crcRead) : AgreeUpToAcc (exec i s) (exec i (s.setAcc v)) := by
  cases i with
  | crcInit w => exact agreeUpToAcc_next (u := w) rfl
  | crcByte b => exact absurd rfl (hbyte b)
  | crcRead => exact absurd rfl hread
  | crc32 bytes w => exact agreeUpToAcc_next (u := crc32 bytes w) rfl
  | encode addr type payload => exact agreeUpToAcc_ite (agreeUpToAcc_next (u := v) rfl) (agreeUpToAcc_refused _)
  | tryDecode w e => exact agreeUpToAcc_ite (agreeUpToAcc_refused _) (agreeUpToAcc_next (u := v) rfl)
  | configure d mode len type target verbose =>
    exact agreeUpToAcc_ite (agreeUpToAcc_refused _) (agreeUpToAcc_ite (agreeUpToAcc_refused _)
      (agreeUpToAcc_ite (agreeUpToAcc_next (u := v) rfl) (agreeUpToAcc_refused _)))
  | receive d c =>
    exact agreeUpToAcc_ite (agreeUpToAcc_refused _)
      (agreeUpToAcc_ite (agreeUpToAcc_next (u := v) rfl) (agreeUpToAcc_refused _))
  | reserved000 => exact agreeUpToAcc_refused _
  | addDecoder d => exact agreeUpToAcc_ite (agreeUpToAcc_next (u := v) rfl) (agreeUpToAcc_refused _)
  | broadcast c => exact agreeUpToAcc_ite (forwardChunk_agreeUpToAcc c s v) (agreeUpToAcc_refused _)
  | send bytes => exact agreeUpToAcc_next (u := v) rfl
  | frame address type payload crc =>
    exact agreeUpToAcc_ite (forwardChunk_agreeUpToAcc _ s v) (agreeUpToAcc_next (u := v) rfl)

end Sys2Proof.Machine

open Sys2Proof Sys2Proof.Machine

/-- Settles O9: `exec_acc_cases` lists the writers of `ACC`, and no guard or result of another operation than CRC.BYTE
and CRC.READ depends on it. -/
theorem accBelongsToTheCrcEngine : Obligations.AccBelongsToTheCrcEngine := by
  refine ⟨fun s t ht hne => ?_, fun i s v hbyte hread => ?_⟩
  · rcases step_act_cases ht with ⟨i, rest, hi, hexec⟩ | ⟨ha, _⟩ | ⟨_, _, _, rfl⟩ | ⟨_, _, rfl⟩
    · rw [hi]
      rcases exec_acc_cases hexec with hacc | ⟨v, rfl⟩ | ⟨b, rfl⟩ | ⟨bytes, v, rfl⟩
      · exact absurd hacc hne
      · exact .inr (.inl ⟨v, rfl⟩)
      · exact .inr (.inr (.inl ⟨b, rfl⟩))
      · exact .inr (.inr (.inr ⟨bytes, v, rfl⟩))
    · exact .inl ha
    · exact absurd rfl hne
    · exact absurd rfl hne
  · exact exec_agreeUpToAcc i s v hbyte hread
end

section
/-! The overflow flag and the invocations under the RECEIVEs of one chunk (10_state.md R32, R36; 42_stream_decoder.md
R166). -/

namespace Sys2Proof.Machine

/-- After overflow RECEIVE does nothing (R166). -/
theorem receive_of_ovf {cap : Option Nat} {d : Decoder} (c : List Byte) (h : d.ovf = true) :
    d.receive cap c = d := by
  rcases receive_cases cap c d with ⟨_, hd⟩ | ⟨hno, _⟩ | ⟨hno, _⟩
  · exact hd
  · exact absurd h (by simp [hno])
  · exact absurd h (by simp [hno])

/-- A chunk beyond the capacity leaves `OVF = 1` (R166). -/
theorem receive_ovf_of_not_fits {cap : Option Nat} {c : List Byte} {d : Decoder}
    (h : fits cap (d.bufLen + c.length) = false) : (d.receive cap c).ovf = true := by
  rcases receive_cases cap c d with ⟨hovf, hd⟩ | ⟨_, _, hd⟩ | ⟨_, hfit, _⟩
  · rw [hd, hovf]
  · rw [hd, raiseOverflow_ovf]
  · exact absurd hfit (by simpa using h)

/-- A RECEIVE that sets `OVF` was given a chunk that does not fit, and leaves the buffer as it is (R166). -/
theorem not_fits_of_receive_ovf {cap : Option Nat} {c : List Byte} {d : Decoder} (h0 : d.ovf = false)
    (h1 : (d.receive cap c).ovf = true) : fits cap ((d.receive cap c).bufLen + c.length) = false := by
  rcases receive_cases cap c d with ⟨hovf, _⟩ | ⟨_, hfit, hd⟩ | ⟨_, _, hd⟩
  · exact absurd hovf (by simp [h0])
  · rw [hd]
    exact hfit
  · rw [hd, (sameRegs_scan _).ovf, resync_ovf, append_ovf, h0] at h1
    cases h1

/-- So any number of RECEIVEs after overflow does nothing. -/
theorem receive_iterate_of_ovf {cap : Option Nat} {d : Decoder} (c : List Byte) (k : Nat) (h : d.ovf = true) :
    (fun x => x.receive cap c)^[k] d = d :=
  Function.iterate_fixed (receive_of_ovf c h) k

/-- RECEIVEs of one chunk that set `OVF`: the one that does so leaves the buffer as it is, and so do those after it. -/
theorem not_fits_of_receive_iterate_ovf {cap : Option Nat} {c : List Byte} {d : Decoder} (k : Nat)
    (h0 : d.ovf = false) (h1 : ((fun x => x.receive cap c)^[k] d).ovf = true) :
    fits cap (((fun x => x.receive cap c)^[k] d).bufLen + c.length) = false := by
  induction k generalizing d with
  | zero => exact absurd h1 (by simp [h0])
  | succ k ih =>
    rw [Function.iterate_succ_apply] at h1 ⊢
    cases hovf : (d.receive cap c).ovf with
    | true =>
      rw [receive_iterate_of_ovf c k hovf]
      exact not_fits_of_receive_ovf h0 hovf
    | false => exact ih hovf h1

theorem out_prefix_receive (cap : Option Nat) (c : List Byte) (d : Decoder) : d.out <+: (d.receive cap c).out := by
  obtain ⟨ms, hout, _⟩ := handsOver_receive cap c d
  exact ⟨ms, hout.symm⟩

theorem out_prefix_receive_iterate (cap : Option Nat) (c : List Byte) (k : Nat) (d : Decoder) :
    d.out <+: ((fun x => x.receive cap c)^[k] d).out :=
  Function.Iterate.rec (fun x : Decoder => d.out <+: x.out) List.prefix_rfl
    (fun x hx => hx.trans (out_prefix_receive cap c x)) k

/-- RECEIVE at a configured decoder of the system (R151). -/
theorem exec_receive_of_configured {s : State} {d : Nat} (c : List Byte) (hd : s.hasInst d = true)
    (hc : (s.inst d).configured = true) :
    exec (.receive d c) s = .next (s.setInst d ((s.inst d).receive s.params.bufCap c)) := by
  simp [exec, execReceive, hd, hc]

theorem step_keeps_ovf {s t : State} {d : Nat} (ht : step s = .next t) (hr : ¬ s.resetsNext d)
    (h : (s.inst d).ovf = true) : (t.inst d).ovf = true := by
  rcases step_inst_cases ht d with hd | ⟨_, _, _, hd⟩ | ⟨_, c, k, _, _, hd⟩ | ⟨hreset, _⟩
  · rw [hd, h]
  · rw [hd]
    exact h
  · rw [hd, receive_iterate_of_ovf c k h, h]
  · exact absurd hreset hr

/-- A step that sets `OVF` feeds the decoder a chunk that does not fit (R32). -/
theorem step_sets_ovf {s t : State} {d : Nat} (ht : step s = .next t) (h0 : (s.inst d).ovf = false)
    (h1 : (t.inst d).ovf = true) :
    ∃ i c, s.nextInstr = some i ∧ Feeds i s d c ∧
      fits s.params.bufCap ((t.inst d).bufLen + c.length) = false := by
  rcases step_inst_cases ht d with hd | ⟨_, _, _, hd⟩ | ⟨i, c, k, hi, hf, hd⟩ | ⟨_, hd⟩
  · exact absurd h1 (by simp [hd, h0])
  · exact absurd h1 (by simp [hd, h0])
  · rw [hd] at h1 ⊢
    exact ⟨i, c, hi, hf, not_fits_of_receive_iterate_ovf k h0 h1⟩
  · exact absurd h1 (by simp [hd, Decoder.reset])

end Sys2Proof.Machine

open Sys2Proof Sys2Proof.Machine

/-- Settles O50: only a RECEIVE of a chunk that does not fit writes `OVF`, and from then on RECEIVE does nothing. -/
theorem overflowFlagIsSticky : Obligations.OverflowFlagIsSticky := by
  refine ⟨fun s d cap c hd hc hcap hlong => ?_, fun s t d ht h0 h1 => ?_, fun s t d => step_keeps_ovf⟩
  · refine ⟨_, exec_receive_of_configured c hd hc, ?_⟩
    rw [inst_setInst_same]
    exact receive_ovf_of_not_fits (not_fits_iff.2 ⟨cap, hcap, hlong⟩)
  · obtain ⟨i, c, hi, hf, hfit⟩ := step_sets_ovf ht h0 h1
    obtain ⟨cap, hcap, hlong⟩ := not_fits_iff.1 hfit
    refine ⟨cap, hcap, c, ?_, hlong⟩
    rw [hi]
    simpa [Feeds] using hf

/-- Settles O51: what a step that is no reset does to a decoder, CONFIGURE or RECEIVEs, only adds to `OUT`. -/
theorem invocationsOnlyGrow : Obligations.InvocationsOnlyGrow := by
  intro s t d ht hr
  rcases step_inst_cases ht d with hd | ⟨_, _, _, hd⟩ | ⟨_, c, k, _, _, hd⟩ | ⟨hreset, _⟩
  · rw [hd]
  · rw [hd]
  · rw [hd]
    exact out_prefix_receive_iterate _ c k _
  · exact absurd hreset hr
end

section
/-! The state after reset, and what the two reset signals leave alone (10_state.md R38, R39; log 20). -/

namespace Sys2Proof.Machine

/-- After reset no decoder is listed and none is registered (R39, R180). -/
theorem state_ok_resetWith (p : Params) : (State.resetWith p).ok = true :=
  (state_ok_iff _).2 ⟨rfl, List.forall_mem_nil _, List.forall_mem_nil _⟩

theorem step_reset {s : State} {rest : List Input} (h : s.inputs = { during := none, act := .reset } :: rest) :
    step s = .next { s with inputs := rest }.resetBlock := by
  rw [step_of_inputs_cons h]
  rfl

theorem step_resetDecoder {s : State} {rest : List Input} {d : Nat}
    (h : s.inputs = { during := none, act := .resetDecoder d } :: rest) (hd : s.hasInst d = true) :
    step s = .next ({ s with inputs := rest }.resetInst d) := by
  rw [step_of_inputs_cons h]
  exact if_pos hd

end Sys2Proof.Machine

open Sys2Proof Sys2Proof.Machine

/-- Settles O46: every decoder is as `Decoder.reset` (`resetWith_inst`), which holds the values of R39. -/
theorem resetValues : Obligations.ResetValues := by
  refine ⟨rfl, fun p => ⟨rfl, fun d => ?_⟩⟩
  rw [resetWith_inst]
  exact ⟨rfl, rfl, rfl, rfl, rfl⟩

/-- Settles O48: the block's reset writes `ACC`, the table of decoders and the results; a decoder's reset writes one
entry of that table. -/
theorem resetsLeaveTheRestAlone : Obligations.ResetsLeaveTheRestAlone := by
  refine fun s rest => ⟨fun hin => ?_, fun d hd hin => ?_⟩
  · exact ⟨_, step_reset hin, rfl, rfl, rfl, rfl, rfl⟩
  · exact ⟨_, step_resetDecoder hin hd, inst_setInst_same .., fun e he => inst_setInst_other _ _ he, rfl, rfl⟩

/-- Settles O59: `State.reset` is the state after reset with the reference parameters. -/
theorem resetSatisfiesInvariant : Obligations.ResetSatisfiesInvariant :=
  ⟨state_ok_resetWith _, state_ok_resetWith⟩
end

section
/-! Big-endian reads of a window's fields, and the bytes of a slice (20_memory.md R50, R58; 30_encoding.md R84 to
R86). -/

namespace Sys2Proof.Machine

@[simp] theorem length_slice (s : List Byte) (a b : Nat) : (slice s a b).length = min (b - a) (s.length - a) := by
  simp [slice]

/-- Byte `i` of a slice is byte `a + i` of the sequence. -/
theorem getElem?_slice (s : List Byte) {a b i : Nat} (h : i < b - a) : (slice s a b)[i]? = s[a + i]? := by
  rw [slice, List.getElem?_take_of_lt h, List.getElem?_drop]

/-- A slice that is not empty begins with the byte at its first index. -/
theorem slice_eq_byteAt_cons {s : List Byte} {a b : Nat} (hab : a < b) (ha : a < s.length) :
    slice s a b = byteAt s a :: slice s (a + 1) b := by
  have hlen : b - a = (b - (a + 1)) + 1 := by omega
  have hbyte : byteAt s a = s[a] := List.getD_eq_getElem s 0 ha
  rw [slice, List.drop_eq_getElem_cons ha, hlen, List.take_succ_cons, hbyte, slice]

theorem beValue_lt (l : List Byte) : beValue l < 256 ^ l.length := by
  induction l with
  | nil => simp [beValue]
  | cons b l ih =>
    have hb : (b.toNat + 1) * 256 ^ l.length ≤ 256 * 256 ^ l.length :=
      Nat.mul_le_mul_right _ b.isLt
    rw [beValue_cons, List.length_cons, pow_succ']
    linarith

/-- `MemRead` of `n` bytes is an `n`-byte value (R10). -/
theorem memRead_lt (s : List Byte) (a n : Nat) : memRead s a n < 256 ^ n := by
  have hlen : (slice s a (a + n)).length ≤ n := by rw [length_slice]; omega
  exact (beValue_lt _).trans_le (Nat.pow_le_pow_right (by decide) hlen)

@[simp] theorem memRead_zero (s : List Byte) (a : Nat) : memRead s a 0 = 0 := by
  simp [memRead, slice, beValue]

/-- The first byte `MemRead` reads is the most significant one (R50). -/
theorem memRead_succ {s : List Byte} {a n : Nat} (h : a + (n + 1) ≤ s.length) :
    memRead s a (n + 1) = (byteAt s a).toNat * 256 ^ n + memRead s (a + 1) n := by
  have hend : a + (n + 1) = a + 1 + n := by omega
  have hlen : (slice s (a + 1) (a + 1 + n)).length = n := by rw [length_slice]; omega
  rw [memRead, slice_eq_byteAt_cons (by omega) (by omega), beValue_cons, hend, hlen, memRead]

/-- `MemRead(S, a, 2)`, byte by byte. -/
theorem memRead_two {s : List Byte} {a : Nat} (h : a + 2 ≤ s.length) :
    memRead s a 2 = 256 * (byteAt s a).toNat + (byteAt s (a + 1)).toNat := by
  rw [memRead_succ h, memRead_succ (by omega), memRead_zero]
  omega

/-- `MemRead(S, a, 4)`, byte by byte. -/
theorem memRead_four {s : List Byte} {a : Nat} (h : a + 4 ≤ s.length) :
    memRead s a 4 = 2 ^ 24 * (byteAt s a).toNat + 2 ^ 16 * (byteAt s (a + 1)).toNat +
      2 ^ 8 * (byteAt s (a + 2)).toNat + (byteAt s (a + 3)).toNat := by
  rw [memRead_succ h, memRead_succ (by omega), memRead_two (by omega)]
  simp only [Nat.add_assoc, Nat.reduceAdd]
  omega

/-! The fields hold what `MemRead` reads: nothing is cut off by their width. -/

theorem toNat_fieldAddress (w : List Byte) : (fieldAddress w).toNat = memRead w 1 2 :=
  Nat.mod_eq_of_lt (memRead_lt w 1 2)

theorem toNat_fieldType (w : List Byte) : (fieldType w).toNat = memRead w 3 2 :=
  Nat.mod_eq_of_lt (memRead_lt w 3 2)

theorem toNat_fieldCrc (w : List Byte) : (fieldCrc w).toNat = memRead w (w.length - 6) 4 :=
  Nat.mod_eq_of_lt (memRead_lt w (w.length - 6) 4)

end Sys2Proof.Machine

open Sys2Proof Sys2Proof.Machine

/-- Settles O10: each field is `MemRead` of its bytes, which a window of 10 bytes has, the first byte weighing most. -/
theorem windowFieldsAreBigEndian : Obligations.WindowFieldsAreBigEndian := by
  refine fun w hw => ⟨?_, ?_, ?_⟩
  · rw [toNat_fieldAddress, memRead_two (by omega)]
    rfl
  · rw [toNat_fieldType, memRead_two (by omega)]
    rfl
  · have h5 : w.length - 5 = w.length - 6 + 1 := by omega
    have h4 : w.length - 4 = w.length - 6 + 2 := by omega
    have h3 : w.length - 3 = w.length - 6 + 3 := by omega
    rw [toNat_fieldCrc, memRead_four (by omega), h5, h4, h3]
    rfl

/-- Settles O18: `BUF_LEN` is the length of `BUF`, and the three primitives are its concatenation, suffix and slice. -/
theorem bufferPrimitives : Obligations.BufferPrimitives := by
  refine fun d c k off n => ⟨⟨rfl, ?_⟩, fun _ => ⟨rfl, ?_, fun i => ?_⟩, fun hn => ⟨?_, fun i hi => ?_⟩⟩
  · exact List.length_append
  · exact List.length_drop
  · exact List.getElem?_drop
  · rw [bufLen_eq] at hn
    rw [Decoder.window, length_slice]
    omega
  · exact getElem?_slice d.buf (by omega)
end

section
/-! The CRC operations in sequence: a CRC.BYTE per byte of a sequence runs the CRC over it (30_encoding.md R97,
40_crc.md R112, R114). -/

namespace Sys2Proof.Machine

/-- A program whose first operation answers a next state goes on from there (R240). -/
theorem execAll_cons_of_next {i : Instr} {s t : State} (rest : List Instr) (h : exec i s = .next t) :
    execAll (i :: rest) s = execAll rest t := by
  rw [execAll, h]

/-- One CRC.BYTE for each byte leaves the CRC of the bytes, begun at `ACC`, in `ACC`. -/
theorem execAll_crcBytes_append (bytes : List Byte) (rest : List Instr) (s : State) :
    execAll (bytes.map .crcByte ++ rest) s = execAll rest (s.setAcc (crc32 bytes s.acc)) := by
  induction bytes generalizing s with
  | nil => rfl
  | cons b bytes ih =>
    have hbyte : exec (.crcByte b) s = .next (s.setAcc (crcStep s.acc b)) := rfl
    rw [List.map_cons, List.cons_append, execAll_cons_of_next _ hbyte]
    exact ih (s.setAcc (crcStep s.acc b))

end Sys2Proof.Machine

open Sys2Proof Sys2Proof.Machine

/-- Settles O4: CRC.INIT sets the accumulator on which the CRC.BYTEs run the CRC, and CRC.READ returns it. -/
theorem crc32IsItsExpansion : Obligations.Crc32IsItsExpansion := by
  refine fun bytes v s => ⟨?_, rfl, rfl, rfl⟩
  have hinit : exec (.crcInit v) s = .next (s.setAcc v) := rfl
  rw [execAll_cons_of_next _ hinit, execAll_crcBytes_append, setAcc_acc]
  rfl
end

section
/-! The bytes of a frame on the wire, and a chunk that every registered decoder accepts (30_encoding.md R80;
43_dispatcher.md R182). -/

namespace Sys2Proof.Machine

/-- A base-256 digit of a word is a byte of it. -/
theorem ofNat_toNat_div_pow_eq_extractLsb' {w : Nat} (v : BitVec w) (n : Nat) :
    BitVec.ofNat 8 (v.toNat / 256 ^ n) = v.extractLsb' (8 * n) 8 := by
  have hpow : 256 ^ n = 2 ^ (8 * n) := by rw [pow_mul]; rfl
  rw [hpow, ← Nat.shiftRight_eq_div_pow]
  rfl

theorem be16_eq_extractLsb' (v : Half) : be16 v = [v.extractLsb' 8 8, v.extractLsb' 0 8] := by
  simp only [be16, beBytes, ofNat_toNat_div_pow_eq_extractLsb']

theorem be32_eq_extractLsb' (v : Word) :
    be32 v = [v.extractLsb' 24 8, v.extractLsb' 16 8, v.extractLsb' 8 8, v.extractLsb' 0 8] := by
  simp only [be32, beBytes, ofNat_toNat_div_pow_eq_extractLsb']

/-- The layout of R80, byte by byte. -/
theorem frameBytes_eq (address type : Half) (payload : List Byte) (crc : Word) :
    frameBytes address type payload crc =
      [0x3A, address.extractLsb' 8 8, address.extractLsb' 0 8, type.extractLsb' 8 8, type.extractLsb' 0 8] ++
        payload ++
        [crc.extractLsb' 24 8, crc.extractLsb' 16 8, crc.extractLsb' 8 8, crc.extractLsb' 0 8, 0x0D, 0x0A] := by
  simp [frameBytes, be16_eq_extractLsb', be32_eq_extractLsb', Config.startMarker, Config.cr, Config.lf]

theorem frameBytes_ne_nil (address type : Half) (payload : List Byte) (crc : Word) :
    frameBytes address type payload crc ≠ [] := List.cons_ne_nil _ _

/-- Forwarding a chunk when every registered decoder is configured (R182). -/
theorem forwardChunk_of_configured {c : List Byte} {s : State} (hc : c ≠ [])
    (hd : ∀ d ∈ s.decoders, (s.inst d).configured = true) :
    forwardChunk c s = .next (receiveEach c s.decoders s) := by
  have hempty : ¬ c.isEmpty = true := by simpa using hc
  have hall : (s.decoders.all fun d => (s.inst d).configured) = true := List.all_eq_true.2 hd
  rw [forwardChunk, if_neg hempty, if_pos hall]

/-- A frame that the reader task reads is one chunk (log 12). -/
theorem exec_frame_of_running {s : State} (address type : Half) (payload : List Byte) (crc : Word)
    (h : s.reader = .running) :
    exec (.frame address type payload crc) s = forwardChunk (frameBytes address type payload crc) s := if_pos h

theorem exec_frame_of_not_running {s : State} (address type : Half) (payload : List Byte) (crc : Word)
    (h : s.reader ≠ .running) : exec (.frame address type payload crc) s = .next s := if_neg h

end Sys2Proof.Machine

open Sys2Proof Sys2Proof.Machine

/-- Settles O43: the frame is forwarded as the chunk of its bytes (`frameBytes_eq`), and forwarding is a RECEIVE for
each registration. -/
theorem frameOnTheWireReachesTheDecoders : Obligations.FrameOnTheWireReachesTheDecoders := by
  intro address type payload crc s f
  refine ⟨fun hr hd => ⟨receiveEach f s.decoders s, ?_, ?_, ?_⟩, ?_⟩
  · rw [exec_frame_of_running _ _ _ _ hr, forwardChunk_of_configured (frameBytes_ne_nil _ _ _ _) hd, frameBytes_eq]
  · exact receiveEach_inst f s.decoders s
  · exact receiveEach_frame f s.decoders s
  · exact exec_frame_of_not_running address type payload crc
end

section
/-! Requests: how a step runs one, which ones are refused, and what written-out ones decode to (30_encoding.md R80,
R89, R92; log 2, log 21). -/

namespace Sys2Proof.Machine

/-- CONFIGURE with FIXED and `L < 10` (R150), refused whether or not the decoder is configured. -/
theorem exec_configure_fixed_of_short {s : State} {d len : Nat} (ty tg : Half) (v : Bool)
    (hd : s.hasInst d = true) (hlen : len < 10) :
    exec (.configure d .fixedLen len ty tg v) s =
      .refused (if (s.inst d).configured then .alreadyConfigured else .badLength) := by
  have hillegal : ¬ legalLength s.params.bufCap .fixedLen len = true := fun h =>
    absurd (legalLength_fixed_iff.1 h).1 (by omega)
  cases hc : (s.inst d).configured <;> simp [exec, execConfigure, hd, hc, hillegal]

/-- A window shorter than 10 bytes, at its own length (R133(c)). -/
theorem exec_tryDecode_of_short (w : List Byte) (s : State) (h : w.length < 10) :
    exec (.tryDecode w w.length) s = .refused .windowTooShort := if_pos ⟨rfl, h⟩

/-- A payload longer than `MAX_PAYLOAD` (R130). -/
theorem exec_encode_of_long {s : State} {payload : List Byte} {cap : Nat} (addr type : Nat)
    (hcap : s.params.maxPayload = some cap) (h : cap < payload.length) :
    exec (.encode addr type payload) s = .refused .payloadTooLong := by
  have hfit : fits s.params.maxPayload payload.length = false := not_fits_iff.2 ⟨cap, hcap, h⟩
  exact if_neg (by rw [hfit]; decide)

theorem runRequest_of_decode_ok {bytes : List Byte} {i : Instr} (s : State) (h : decode bytes = .ok i) :
    runRequest bytes s = exec i s := by
  rw [runRequest, h]

theorem runRequest_of_decode_error {bytes : List Byte} {e : DecodeError} (s : State)
    (h : decode bytes = .error e) : runRequest bytes s = .refused (.badRequest e) := by
  rw [runRequest, h]

/-- A step with a request pending that no RECEIVE in progress holds up (log 21). -/
theorem step_request {s : State} {bytes : List Byte} {rest : List Input}
    (h : s.inputs = { during := none, act := .request bytes } :: rest) :
    step s = runRequest bytes { s with inputs := rest } := step_of_inputs_cons h

theorem step_of_inputs_nil {s : State} (h : s.inputs = []) : step s = .next s := by
  rw [step, h]

end Sys2Proof.Machine

open Sys2Proof Sys2Proof.Machine

/-- Settles O44: each operation's guard fails on the operands outside its range. -/
theorem requestsWithoutMeaningAreRefused : Obligations.RequestsWithoutMeaningAreRefused :=
  fun s => ⟨rfl, fun _ _ ty tg v => exec_configure_fixed_of_short ty tg v,
    fun w => exec_tryDecode_of_short w s, fun addr type _ _ => exec_encode_of_long addr type⟩

/-- Settles O45: the request is taken (`step_request`), and the decoder's answer says what is run. -/
theorem stepRunsTheDecodedOperation : Obligations.StepRunsTheDecodedOperation := by
  refine ⟨fun bytes rest i s hin hdec _ => ?_, fun bytes rest e s hin hdec => ?_, fun s => step_of_inputs_nil⟩
  · rw [step_request hin, runRequest_of_decode_ok _ hdec]
  · rw [step_request hin, runRequest_of_decode_error _ hdec]

/-- Settles O58: the decoder evaluated on each request; the reserved select drops whatever follows it. -/
theorem writtenRequestsDecode : Obligations.WrittenRequestsDecode := by
  refine ⟨?crcInit, ?crcByte, ?crcRead, ?encode, ?tryDecode, ?reserved, ?configure, ?receive, ?frame, ?tableWord⟩
  case reserved => exact fun _ => rfl
  all_goals decide
end

section
/-! The CRC accumulator as a linear register: a round is linear over XOR, the bits of a byte can be fed in one by
one, and a table can hold the rounds of the top byte (40_crc.md R112, R115, R116). -/

namespace Sys2Proof.Machine

/-- What the bit shifted out of the register feeds back into it (R112, R115). -/
def crcFeedback (bit : Bool) : Word := if bit then Config.crcPoly else 0

theorem crcFeedback_xor (x y : Bool) : crcFeedback (x ^^ y) = crcFeedback x ^^^ crcFeedback y := by
  cases x <;> cases y <;> decide

theorem ite_xor_crcPoly (x : Word) (bit : Bool) :
    (if bit then x ^^^ Config.crcPoly else x) = x ^^^ crcFeedback bit := by
  cases bit
  · exact BitVec.xor_zero.symm
  · rfl

theorem crcRound_eq (a : Word) : crcRound a = (a <<< 1) ^^^ crcFeedback (a.getLsbD 31) := ite_xor_crcPoly _ _

theorem crcBit_eq (a : Word) (bit : Bool) : crcBit a bit = (a <<< 1) ^^^ crcFeedback (a.getLsbD 31 ^^ bit) :=
  ite_xor_crcPoly _ _

/-! ### The rounds -/

theorem crcRound_xor (a c : Word) : crcRound (a ^^^ c) = crcRound a ^^^ crcRound c := by
  simp only [crcRound_eq, BitVec.shiftLeft_xor_distrib, BitVec.getLsbD_xor, crcFeedback_xor]
  ac_rfl

theorem crcRounds_xor (k : Nat) (a c : Word) : crcRounds k (a ^^^ c) = crcRounds k a ^^^ crcRounds k c := by
  induction k generalizing a c with
  | zero => rfl
  | succ k ih => rw [crcRounds, crcRound_xor, ih, crcRounds, crcRounds]

theorem crcRounds_eq_iterate (k : Nat) (a : Word) : crcRounds k a = crcRound^[k] a := by
  induction k generalizing a with
  | zero => rfl
  | succ k ih => exact ih (crcRound a)

/-- While no 1 bit reaches the top, rounds only shift. -/
theorem crcRounds_of_top_clear {k : Nat} (hk : k ≤ 32) {a : Word}
    (h : ∀ i, 32 - k ≤ i → a.getLsbD i = false) : crcRounds k a = a <<< k := by
  induction k generalizing a with
  | zero => exact (BitVec.shiftLeft_zero a).symm
  | succ k ih =>
    have hround : crcRound a = a <<< 1 := by rw [crcRound_eq, h 31 (by omega)]; exact BitVec.xor_zero
    have hclear : ∀ i, 32 - k ≤ i → (a <<< 1).getLsbD i = false := fun i hi => by
      simp [BitVec.getLsbD_shiftLeft, h (i - 1) (by omega)]
    rw [crcRounds, hround, ih (by omega) hclear, ← BitVec.shiftLeft_add, Nat.add_comm]

/-! ### Bit by bit -/

/-- XORing bits `k`, ..., 0 of `x` into the top at once is XORing bit `k` in now and the others after the round. -/
theorem crcRound_xor_shiftLeft (a x : Word) {k : Nat} (hk : k < 32) :
    crcRound (a ^^^ (x <<< (31 - k))) = crcBit a (x.getLsbD k) ^^^ (x <<< (32 - k)) := by
  have htop : (x <<< (31 - k)).getLsbD 31 = x.getLsbD k := by
    have hpos : 31 - (31 - k) = k := by omega
    simp [hk, hpos, show ¬ 31 < 31 - k by omega]
  have hshift : (x <<< (31 - k)) <<< 1 = x <<< (32 - k) := by
    rw [← BitVec.shiftLeft_add]
    congr 1
    omega
  rw [crcRound_eq, crcBit_eq, BitVec.shiftLeft_xor_distrib, BitVec.getLsbD_xor, htop, hshift, BitVec.xor_assoc,
    BitVec.xor_comm (x <<< (32 - k)), ← BitVec.xor_assoc]

/-- Feeding the low `k` bits of a byte, most significant first, is XORing them into the top and running `k` rounds. -/
theorem foldl_crcBit (b : Byte) {k : Nat} (hk : k ≤ 8) (a : Word) :
    (List.range k).reverse.foldl (fun a i => crcBit a (b.getLsbD i)) a =
      crcRounds k (a ^^^ (b.setWidth 32 <<< (32 - k))) := by
  induction k generalizing a with
  | zero => simp [crcRounds]
  | succ k ih =>
    have hbit : (b.setWidth 32).getLsbD k = b.getLsbD k := by simp [show k < 32 by omega]
    have hsub : 32 - (k + 1) = 31 - k := by omega
    rw [List.range_succ, List.reverse_concat, List.foldl_cons, ih (by omega), crcRounds, hsub,
      crcRound_xor_shiftLeft a _ (by omega), hbit]

/-! ### Byte by byte -/

theorem crcStep_xor (a c : Word) (b d : Byte) : crcStep (a ^^^ c) (b ^^^ d) = crcStep a b ^^^ crcStep c d := by
  simp only [crcStep, crcRounds_xor, BitVec.setWidth_xor, BitVec.shiftLeft_xor_distrib]
  ac_rfl

/-- A byte equal to the top byte of the register cancels it, and the eight rounds only shift the rest (R112). -/
theorem crcStep_topByte (a : Word) : crcStep a (a.extractLsb' 24 8) = a <<< 8 := by
  have hclear : ∀ i, 24 ≤ i → (a ^^^ ((a.extractLsb' 24 8).setWidth 32 <<< 24)).getLsbD i = false := by
    intro i hi
    rcases Nat.lt_or_ge i 32 with h32 | h32
    · have hbit : i - 24 < 8 := by omega
      simp [hi, h32, hbit, Nat.not_lt.2 hi]
    · exact BitVec.getLsbD_of_ge _ _ h32
  rw [crcStep, crcRounds_of_top_clear (by decide) hclear, BitVec.shiftLeft_xor_distrib, ← BitVec.shiftLeft_add,
    BitVec.shiftLeft_eq_zero (n := 24 + 8) (by decide), BitVec.xor_zero]

/-- The register's next byte, once the `n` bits above it have been shifted out. -/
theorem crcStep_shiftLeft (c : Word) {n : Nat} (hn : n ≤ 24) :
    crcStep (c <<< n) (c.extractLsb' (24 - n) 8) = c <<< (n + 8) := by
  have htop : (c <<< n).extractLsb' 24 8 = c.extractLsb' (24 - n) 8 := by
    refine BitVec.eq_of_getLsbD_eq fun i hi => ?_
    have hpos : 24 + i - n = 24 - n + i := by omega
    simp [hi, hpos, show 24 + i < 32 by omega, show ¬ 24 + i < n by omega, show 24 - n + i < 32 by omega]
  rw [← htop, crcStep_topByte, BitVec.shiftLeft_add]

/-! ### Sequences of bytes -/

@[simp] theorem crc32_nil (v : Word) : crc32 [] v = v := rfl
@[simp] theorem crc32_cons (b : Byte) (s : List Byte) (v : Word) : crc32 (b :: s) v = crc32 s (crcStep v b) := rfl

/-- Chaining (R116(b)). -/
theorem crc32_append (s t : List Byte) (v : Word) : crc32 (s ++ t) v = crc32 t (crc32 s v) := List.foldl_append

/-- Linearity over XOR (R116(c)), in the initial values as well. -/
theorem crc32_zipWith_xor {a e : List Byte} (h : a.length = e.length) (v w : Word) :
    crc32 (List.zipWith (fun x y => x ^^^ y) a e) (v ^^^ w) = crc32 a v ^^^ crc32 e w := by
  induction a generalizing e v w with
  | nil =>
    obtain rfl := List.length_eq_zero_iff.1 h.symm
    rfl
  | cons x a ih =>
    obtain ⟨y, e, rfl⟩ := List.exists_cons_of_length_eq_add_one h.symm
    rw [List.zipWith_cons_cons, crc32_cons, crcStep_xor, ih (Nat.succ.inj h), crc32_cons, crc32_cons]

/-- The bytes of the register itself, most significant first, shift it out (R116(d)). -/
theorem crc32_be32_self (c : Word) : crc32 (be32 c) c = 0 := by
  have h1 : crcStep c (c.extractLsb' 24 8) = c <<< 8 := crcStep_topByte c
  have h2 : crcStep (c <<< 8) (c.extractLsb' 16 8) = c <<< 16 := crcStep_shiftLeft c (by decide)
  have h3 : crcStep (c <<< 16) (c.extractLsb' 8 8) = c <<< 24 := crcStep_shiftLeft c (by decide)
  have h4 : crcStep (c <<< 24) (c.extractLsb' 0 8) = c <<< 32 := crcStep_shiftLeft c (by decide)
  rw [be32_eq_extractLsb', crc32_cons, h1, crc32_cons, h2, crc32_cons, h3, crc32_cons, h4, crc32_nil]
  exact BitVec.shiftLeft_eq_zero (le_refl 32)

theorem crc32_replicate_zero (k : Nat) : crc32 (List.replicate k 0) 0 = 0 := by
  induction k with
  | zero => rfl
  | succ k ih =>
    have hstep : crcStep 0 0 = 0 := by decide
    rw [List.replicate_succ, crc32_cons, hstep, ih]

end Sys2Proof.Machine

open Sys2Proof Sys2Proof.Machine

/-- Settles O5: all eight bits of the byte, fed one by one (`foldl_crcBit`). -/
theorem bitSerialCrcAgrees : Obligations.BitSerialCrcAgrees := fun a b => foldl_crcBit b (le_refl 8) a

/-- Settles O6: `b` is the top byte of `a`, which is only shifted out, XORed with the index of the table, which a
zero register takes in. -/
theorem tableDrivenCrcAgrees : Obligations.TableDrivenCrcAgrees := by
  intro a b
  have hbyte : a.extractLsb' 24 8 ^^^ (a.extractLsb' 24 8 ^^^ b) = b := by
    rw [← BitVec.xor_assoc, BitVec.xor_self, BitVec.zero_xor]
  calc crcStepTable a b
    _ = crcStep a (a.extractLsb' 24 8) ^^^ crcStep 0 (a.extractLsb' 24 8 ^^^ b) := by
      rw [crcStep_topByte, crcStepTable, crcTable]
    _ = crcStep (a ^^^ 0) (a.extractLsb' 24 8 ^^^ (a.extractLsb' 24 8 ^^^ b)) := (crcStep_xor ..).symm
    _ = crcStep a b := by rw [hbyte, show a ^^^ 0 = a from BitVec.xor_zero]

/-- Settles O7: the linear half at the initial values `v` and 0. -/
theorem crcChainsAndIsLinear : Obligations.CrcChainsAndIsLinear := by
  refine ⟨crc32_append, fun a e v h => ?_⟩
  calc crc32 (List.zipWith (fun x y => x ^^^ y) a e) v
    _ = crc32 (List.zipWith (fun x y => x ^^^ y) a e) (v ^^^ 0) := by rw [show v ^^^ 0 = v from BitVec.xor_zero]
    _ = crc32 a v ^^^ crc32 e 0 := crc32_zipWith_xor h v 0

/-- Settles O8: chaining cuts off the CRC at the end, which shifts itself out, and the zeros in front, which leave 0. -/
theorem crcResidueIsZero : Obligations.CrcResidueIsZero := by
  refine ⟨fun s => ?_, fun k s => ?_⟩
  · rw [crc32_append, crc32_be32_self]
  · rw [crc32_append, crc32_replicate_zero]
end

section
/-! What each operation of the CRC Engine does to the state (40_crc.md R111 to R113). -/

open Sys2Proof Sys2Proof.Machine

/-- Settles O1: CRC.INIT writes `ACC` only, and the decoder puts `CRC_INIT` for an omitted operand. -/
theorem crcInitLoadsAcc : Obligations.CrcInitLoadsAcc := ⟨fun _ _ => rfl, rfl⟩

/-- Settles O2: CRC.BYTE writes `ACC` only, and the model's rounds are the iterate of the statement's
(`crcRounds_eq_iterate`), whose test asks for a 0 bit. -/
theorem crcByteRunsEightRounds : Obligations.CrcByteRunsEightRounds := by
  intro b s
  have hround : (fun a : Word => if a.getLsbD 31 = false then a <<< 1 else (a <<< 1) ^^^ 0x04C11DB7) = crcRound := by
    funext a
    rw [crcRound]
    cases a.getLsbD 31 <;> rfl
  have hstep : exec (.crcByte b) s = .next (s.setAcc (crcStep s.acc b)) := rfl
  rw [hround, hstep, crcStep, crcRounds_eq_iterate, State.setAcc]

/-- Settles O3: CRC.READ adds `ACC` to the returned values and writes nothing else. -/
theorem crcReadReturnsAcc : Obligations.CrcReadReturnsAcc := fun _ => rfl
end

section
/-! A window as the bytes before its CRC field, that field and the terminator: what its parts and its structural checks
are, and when its CRC is correct (30_encoding.md R80, R84 to R87; 41_frame_codec.md R130, R132). -/

namespace Sys2Proof.Machine

/-- The bytes `front` with the trailer of R80: the CRC field holding `c`, CR, LF. -/
def withTrailer (front : List Byte) (c : Word) : List Byte := front ++ (be32 c ++ [Config.cr, Config.lf])

@[simp] theorem length_withTrailer (front : List Byte) (c : Word) :
    (withTrailer front c).length = front.length + 6 := by
  simp [withTrailer]

theorem memRead_middle (a m b : List Byte) : memRead (a ++ (m ++ b)) a.length m.length = beValue m := by
  rw [memRead, slice_middle]

@[simp] theorem fieldCrc_withTrailer (front : List Byte) (c : Word) : fieldCrc (withTrailer front c) = c := by
  refine BitVec.eq_of_toNat_eq ?_
  rw [toNat_fieldCrc, length_withTrailer, Nat.add_sub_cancel, ← beValue_be32 c]
  exact memRead_middle front (be32 c) _

theorem withCrcField_withTrailer (front : List Byte) (c c' : Word) :
    withCrcField (withTrailer front c) c' = withTrailer front c' := by
  rw [withCrcField, length_withTrailer]
  exact memWrite_middle front (be32 c) _ c'.toNat

theorem crcComputed_withTrailer (front : List Byte) (c : Word) :
    crcComputed (withTrailer front c) = crc32 (withTrailer front 0) Config.crcInit := by
  rw [crcComputed, crcFieldZeroed, withCrcField_withTrailer]

/-- A window that begins with the marker and ends with CR, LF passes the structural checks at its own length. -/
theorem structOk_withTrailer (rest : List Byte) (c : Word) :
    structOk (withTrailer (Config.startMarker :: rest) c) (rest.length + 7) = true := by
  have hlen : (withTrailer (Config.startMarker :: rest) c).length = rest.length + 7 := length_withTrailer _ _
  refine structOk_iff.2 ⟨hlen, rfl, ?_, ?_⟩
  all_goals
    rw [hlen, withTrailer, be32_eq_extractLsb', byteAt, List.getD_append_right _ _ _ _ (by simp)]
    simp

/-- A window whose CRC field holds the CRC of the window with that field zero decodes with a correct CRC. -/
theorem tryDecode_of_withTrailer_crc {w rest : List Byte} {c : Word}
    (hw : w = withTrailer (Config.startMarker :: rest) c)
    (hc : crc32 (withTrailer (Config.startMarker :: rest) 0) Config.crcInit = c) :
    tryDecode w (rest.length + 7) =
      some { address := fieldAddress w, type := fieldType w, payload := fieldPayload w,
             crcComputed := c, crcReceived := c, crcCorrect := true } := by
  have hcomputed : crcComputed w = c := by rw [hw, crcComputed_withTrailer, hc]
  have hreceived : fieldCrc w = c := by rw [hw, fieldCrc_withTrailer]
  refine tryDecode_eq_some.2 ⟨hw ▸ structOk_withTrailer rest c, ?_⟩
  simp [decodeWindow, crcCorrect, hcomputed, hreceived]

/-! ### Frames -/

theorem frameHeader_eq (a t : Half) : frameHeader a t = Config.startMarker :: (be16 a ++ be16 t) := by
  simp [frameHeader, be16_eq_extractLsb']

theorem frameBytes_eq_withTrailer (a t : Half) (payload : List Byte) (c : Word) :
    frameBytes a t payload c = withTrailer (Config.startMarker :: (be16 a ++ (be16 t ++ payload))) c := by
  simp [frameBytes, withTrailer]

theorem length_frameRest (a t : Half) (payload : List Byte) :
    (be16 a ++ (be16 t ++ payload)).length + 7 = 11 + payload.length := by
  simp
  omega

theorem length_frameBytes (a t : Half) (payload : List Byte) (c : Word) :
    (frameBytes a t payload c).length = 11 + payload.length := by
  rw [frameBytes_eq_withTrailer, length_withTrailer, ← length_frameRest a t payload]
  rfl

theorem structOk_frameBytes (a t : Half) (payload : List Byte) (c : Word) :
    structOk (frameBytes a t payload c) (11 + payload.length) = true := by
  rw [frameBytes_eq_withTrailer, ← length_frameRest a t payload]
  exact structOk_withTrailer _ c

@[simp] theorem fieldAddress_frameBytes (a t : Half) (payload : List Byte) (c : Word) :
    fieldAddress (frameBytes a t payload c) = a := by
  refine BitVec.eq_of_toNat_eq ?_
  have hsplit : frameBytes a t payload c =
      [Config.startMarker] ++ (be16 a ++ (be16 t ++ (payload ++ (be32 c ++ [Config.cr, Config.lf])))) := by
    simp [frameBytes]
  rw [toNat_fieldAddress, hsplit, ← beValue_be16 a]
  exact memRead_middle [Config.startMarker] (be16 a) _

@[simp] theorem fieldType_frameBytes (a t : Half) (payload : List Byte) (c : Word) :
    fieldType (frameBytes a t payload c) = t := by
  refine BitVec.eq_of_toNat_eq ?_
  have hsplit : frameBytes a t payload c =
      (Config.startMarker :: be16 a) ++ (be16 t ++ (payload ++ (be32 c ++ [Config.cr, Config.lf]))) := by
    simp [frameBytes]
  rw [toNat_fieldType, hsplit, ← beValue_be16 t]
  exact memRead_middle (Config.startMarker :: be16 a) (be16 t) _

@[simp] theorem fieldPayload_frameBytes (a t : Half) (payload : List Byte) (c : Word) :
    fieldPayload (frameBytes a t payload c) = payload := by
  have hsplit : frameBytes a t payload c =
      (Config.startMarker :: (be16 a ++ be16 t)) ++ (payload ++ (be32 c ++ [Config.cr, Config.lf])) := by
    simp [frameBytes]
  have hend : 11 + payload.length - Config.trailerLen = 5 + payload.length := by
    rw [show Config.trailerLen = 6 from rfl]
    omega
  rw [fieldPayload, length_frameBytes, hend, hsplit]
  exact slice_middle (Config.startMarker :: (be16 a ++ be16 t)) payload _

/-- The fields of a frame are what `decodeFrame` reads from it (R80, R81). -/
theorem decodeFrame_of_structOk {w : List Byte} (hlen : 11 ≤ w.length) (h : structOk w w.length = true) :
    decodeFrame w = .ok (.frame (fieldAddress w) (fieldType w) (fieldPayload w) (fieldCrc w)) := by
  obtain ⟨-, hmarker, hcr, hlf⟩ := structOk_iff.1 h
  have hlong : ¬ w.length < Config.overhead := Nat.not_lt.2 hlen
  simp only [decodeFrame, hlong, hmarker, hcr, hlf, ne_eq, not_true_eq_false, if_false]
  rfl

/-- A frame in its own wire bytes is the request FRAME with its fields (R80; log 2). -/
theorem decode_frameBytes (a t : Half) (payload : List Byte) (c : Word) :
    decode (frameBytes a t payload c) = .ok (.frame a t payload c) := by
  have hlen := length_frameBytes a t payload c
  have hok : structOk (frameBytes a t payload c) (frameBytes a t payload c).length = true := by
    rw [hlen]
    exact structOk_frameBytes a t payload c
  have hcrc : fieldCrc (frameBytes a t payload c) = c := by
    rw [frameBytes_eq_withTrailer, fieldCrc_withTrailer]
  calc decode (frameBytes a t payload c)
    _ = decodeFrame (frameBytes a t payload c) := rfl
    _ = .ok (.frame a t payload c) := by
      rw [decodeFrame_of_structOk (by omega) hok, fieldAddress_frameBytes, fieldType_frameBytes,
        fieldPayload_frameBytes, hcrc]

/-- ENCODE builds the frame of its reduced operands whose CRC field holds the CRC of the frame with that field
zero (R130). -/
theorem encodeFrame_eq (addr type : Nat) (payload : List Byte) :
    encodeFrame addr type payload =
      frameBytes (reduceHalf addr) (reduceHalf type) payload
        (crc32 (frameBytes (reduceHalf addr) (reduceHalf type) payload 0) Config.crcInit) := by
  have hzero : frameHeader (reduceHalf addr) (reduceHalf type) ++ payload ++ frameTrailer =
      frameBytes (reduceHalf addr) (reduceHalf type) payload 0 := by
    rw [frameHeader_eq, show frameTrailer = be32 0 ++ [Config.cr, Config.lf] from rfl]
    simp [frameBytes]
  rw [encodeFrame, hzero, frameBytes_eq_withTrailer, withCrcField_withTrailer, ← frameBytes_eq_withTrailer]

theorem reduceHalf_mod (v : Nat) : BitVec.ofNat 16 (v % 65536) = reduceHalf v :=
  BitVec.eq_of_toNat_eq (Nat.mod_mod v _)

end Sys2Proof.Machine

open Sys2Proof Sys2Proof.Machine

/-- Settles O11: within `MAX_PAYLOAD` the frame is the one of `encodeFrame_eq`, byte by byte. -/
theorem encodeReturnsTheFrame : Obligations.EncodeReturnsTheFrame := by
  refine fun addr type payload s => ⟨fun hfit => ?_, fun cap => exec_encode_of_long addr type⟩
  have hexec : exec (.encode addr type payload) s = .next (s.giveResult (.frame (encodeFrame addr type payload))) :=
    if_pos (fits_iff.2 hfit)
  rw [hexec, encodeFrame_eq, frameBytes_eq, frameBytes_eq, reduceHalf_mod, reduceHalf_mod]
  rfl

/-- Settles O12: the result is a frame in its wire bytes, which decode to its fields. -/
theorem encodeResultIsTheWirePattern : Obligations.EncodeResultIsTheWirePattern := by
  intro addr type payload
  rw [encodeFrame_eq]
  exact ⟨length_frameBytes _ _ _ _, decode_frameBytes _ _ _ _⟩

/-- Settles O16: the fields of the encoded frame are the operands, and its CRC field holds the CRC it is to be
compared with. -/
theorem decodingAnEncodedFrameGivesItBack : Obligations.DecodingAnEncodedFrameGivesItBack := by
  intro addr type payload
  have hw := (encodeFrame_eq addr type payload).trans (frameBytes_eq_withTrailer _ _ _ _)
  have h := tryDecode_of_withTrailer_crc hw (by rw [← frameBytes_eq_withTrailer])
  rw [length_frameRest, encodeFrame_eq, fieldAddress_frameBytes, fieldType_frameBytes, fieldPayload_frameBytes,
    ← encodeFrame_eq] at h
  exact ⟨_, h⟩

/-- Settles O15: the header bytes after the marker are the `rest` of `tryDecode_of_withTrailer_crc`; the field of the
type ends with the first byte of the CRC. -/
theorem phantomWindowIsCrcCorrect : Obligations.PhantomWindowIsCrcCorrect := by
  intro w1 w2 w3 c
  rw [be32_eq_extractLsb']
  have h := tryDecode_of_withTrailer_crc (rest := [w1, w2, w3]) (c := c)
    (by rw [withTrailer, be32_eq_extractLsb', ← List.append_assoc]) rfl
  rw [fieldAddress, memRead_two (by simp), fieldType, memRead_two (by simp)] at h
  exact h
end

section
/-! TRY_DECODE on any window: its structural checks, and its fields and CRC byte by byte (41_frame_codec.md R132,
R133). -/

namespace Sys2Proof.Machine

/-- TRY_DECODE with its four structural checks, length, marker, CR and LF, written out (R132). -/
theorem tryDecode_eq_ite (w : List Byte) (e : Nat) :
    tryDecode w e =
      if w.length = e ∧ byteAt w 0 = Config.startMarker ∧ byteAt w (w.length - 2) = Config.cr ∧
          byteAt w (w.length - 1) = Config.lf then some (decodeWindow w) else none := by
  rw [tryDecode, if_congr structOk_iff rfl rfl]

theorem crcCorrect_decodeWindow_eq_false {w : List Byte} (h : crcComputed w ≠ fieldCrc w) :
    (decodeWindow w).crcCorrect = false := decide_eq_false h

theorem exec_tryDecode_of_not_refused {w : List Byte} {e : Nat} {m : Option DecodedMessage} (s : State)
    (h : ¬ (w.length = e ∧ w.length < 10)) (hm : tryDecode w e = m) :
    exec (.tryDecode w e) s = .next (s.giveResult (.decoded m)) :=
  hm ▸ if_neg h

/-- The working copy: the four bytes of the CRC field are zero, the others are the window's (R35(a)). -/
theorem crcFieldZeroed_eq {w : List Byte} (h : 6 ≤ w.length) :
    crcFieldZeroed w = w.take (w.length - 6) ++ [0, 0, 0, 0] ++ w.drop (w.length - 2) := by
  have hend : w.length - 6 + 4 = w.length - 2 := by omega
  rw [← hend]
  rfl

/-- The message of a window of at least 10 bytes, byte by byte (R84 to R87, R132). -/
theorem decodeWindow_eq {w : List Byte} (h : 10 ≤ w.length) :
    decodeWindow w =
      let n := w.length
      let rx : Word := BitVec.ofNat 32 (2 ^ 24 * (byteAt w (n - 6)).toNat + 2 ^ 16 * (byteAt w (n - 5)).toNat +
        2 ^ 8 * (byteAt w (n - 4)).toNat + (byteAt w (n - 3)).toNat)
      let calc' := crc32 (w.take (n - 6) ++ [0, 0, 0, 0] ++ w.drop (n - 2)) Config.crcInit
      { address := BitVec.ofNat 16 (256 * (byteAt w 1).toNat + (byteAt w 2).toNat)
        type := BitVec.ofNat 16 (256 * (byteAt w 3).toNat + (byteAt w 4).toNat)
        payload := (w.drop 5).take (n - 6 - 5)
        crcComputed := calc'
        crcReceived := rx
        crcCorrect := decide (calc' = rx) } := by
  have hcrc : fieldCrc w = BitVec.ofNat 32 (memRead w (w.length - 6) 4) := rfl
  have h5 : w.length - 6 + 1 = w.length - 5 := by omega
  have h4 : w.length - 6 + 2 = w.length - 4 := by omega
  have h3 : w.length - 6 + 3 = w.length - 3 := by omega
  rw [memRead_four (by omega), h5, h4, h3] at hcrc
  rw [decodeWindow, crcCorrect, crcComputed, crcFieldZeroed_eq (by omega), hcrc, fieldAddress,
    memRead_two (by omega), fieldType, memRead_two (by omega)]
  rfl

end Sys2Proof.Machine

open Sys2Proof Sys2Proof.Machine

/-- Settles O13: a window that passes the checks and is not refused has at least 10 bytes, so that `decodeWindow_eq`
gives its message. -/
theorem tryDecodeFollowsItsRule : Obligations.TryDecodeFollowsItsRule := by
  intro w e s hrefused n b rx calc'
  have hn : ¬ (w.length = e ∧ w.length < 10) := fun ⟨he, h⟩ => hrefused ⟨he, he ▸ h⟩
  refine exec_tryDecode_of_not_refused s hn ?_
  rw [tryDecode_eq_ite]
  refine if_ctx_congr Iff.rfl (fun hok => ?_) fun _ => rfl
  have hlong : 10 ≤ w.length := Nat.le_of_not_lt fun h => hn ⟨hok.1, h⟩
  exact congrArg some (decodeWindow_eq hlong)

/-- Settles O14: at its own length the window meets the refusal, at another the length check fails. -/
theorem shortWindowsAreRefused : Obligations.ShortWindowsAreRefused := by
  refine fun w e s hshort => ⟨fun he => ?_, fun he => ?_⟩
  · rw [← he]
    exact exec_tryDecode_of_short w s hshort
  · refine exec_tryDecode_of_not_refused s (fun h => he h.1) ?_
    rw [tryDecode_eq_ite, if_neg fun h => he h.1]
end

section
/-! The CRC tells apart any two sequences that differ in one byte: a round, a step and a run of steps are injective
(40_crc.md R112; 41_frame_codec.md R135). -/

namespace Sys2Proof.Machine

/-- The top bit that a round shifts out is bit 0 of its result, since the generator's bit 0 is 1. -/
theorem crcRound_injective : Function.Injective crcRound := by
  have hbit : ∀ a, (crcRound a).getLsbD 0 = a.getLsbD 31 := fun a => by
    rw [crcRound_eq]
    cases a.getLsbD 31 <;> simp [crcFeedback, Config.crcPoly]
  intro a c h
  have htop : a.getLsbD 31 = c.getLsbD 31 := by rw [← hbit, h, hbit]
  rw [crcRound_eq, crcRound_eq, htop, BitVec.xor_left_inj] at h
  refine BitVec.eq_of_getLsbD_eq fun i hi => ?_
  rcases Nat.lt_or_ge i 31 with hlow | hhigh
  · simpa [hi, show i + 1 < 32 by omega] using congrArg (BitVec.getLsbD · (i + 1)) h
  · obtain rfl : i = 31 := by omega
    exact htop

theorem crcRounds_injective (k : Nat) : Function.Injective (crcRounds k) := by
  rw [show crcRounds k = crcRound^[k] from funext (crcRounds_eq_iterate k)]
  exact crcRound_injective.iterate k

theorem crcStep_left_injective (b : Byte) : Function.Injective (crcStep · b) := fun _ _ h =>
  BitVec.xor_left_inj _ |>.1 (crcRounds_injective 8 h)

theorem crcStep_right_injective (a : Word) : Function.Injective (crcStep a) := by
  intro b c h
  have hshift := BitVec.xor_right_inj _ |>.1 (crcRounds_injective 8 h)
  refine BitVec.eq_of_getLsbD_eq fun i hi => ?_
  simpa [hi, show i + 24 < 32 by omega] using congrArg (BitVec.getLsbD · (i + 24)) hshift

theorem crc32_injective (s : List Byte) : Function.Injective (crc32 s) := by
  induction s with
  | nil => exact Function.injective_id
  | cons b s ih => exact ih.comp (crcStep_left_injective b)

/-- Changing one byte of a sequence changes its CRC. -/
theorem crc32_set_ne {s : List Byte} {k : Nat} {x : Byte} (hk : k < s.length) (hx : x ≠ byteAt s k) (v : Word) :
    crc32 (s.set k x) v ≠ crc32 s v := by
  induction s generalizing k v with
  | nil => exact absurd hk (Nat.not_lt_zero k)
  | cons b s ih =>
    cases k with
    | zero => exact fun h => hx (crcStep_right_injective v (crc32_injective s h))
    | succ k => exact ih (Nat.lt_of_succ_lt_succ hk) hx (crcStep v b)

end Sys2Proof.Machine
end

section
/-! What TRY_DECODE makes of a window in which one byte has been changed (41_frame_codec.md R135). -/

namespace Sys2Proof.Machine

theorem byteAt_set_self {w : List Byte} {k : Nat} (x : Byte) (h : k < w.length) : byteAt (w.set k x) k = x := by
  simp [byteAt, h]

theorem byteAt_set_ne (w : List Byte) {k j : Nat} (x : Byte) (h : k ≠ j) : byteAt (w.set k x) j = byteAt w j := by
  simp [byteAt, h]

/-- A byte with one bit flipped is another byte. -/
theorem xor_one_shiftLeft_ne (b : Byte) {i : Nat} (hi : i < 8) : b ^^^ ((1 : Byte) <<< i) ≠ b := by
  intro h
  simpa [hi] using congrArg (BitVec.getLsbD · i) h

/-- Sequences of one length are equal when their big-endian values are. -/
theorem eq_of_beValue_eq {l r : List Byte} (hlen : l.length = r.length) (h : beValue l = beValue r) : l = r := by
  induction l generalizing r with
  | nil => exact (List.length_eq_zero_iff.1 hlen.symm).symm
  | cons b l ih =>
    obtain ⟨c, r, rfl⟩ := List.exists_cons_of_length_eq_add_one hlen.symm
    have hlen' : l.length = r.length := Nat.succ.inj hlen
    have hdigits : ∀ (d : Byte) (m : List Byte), m.length = r.length →
        beValue (d :: m) / 256 ^ r.length = d.toNat ∧ beValue (d :: m) % 256 ^ r.length = beValue m := by
      intro d m hm
      refine (Nat.div_mod_unique (by positivity)).2 ⟨?_, hm ▸ beValue_lt m⟩
      rw [beValue_cons, hm]
      ring
    obtain ⟨hb, hl⟩ := hdigits b l hlen'
    obtain ⟨hc, hr⟩ := hdigits c r rfl
    rw [h] at hb hl
    rw [BitVec.eq_of_toNat_eq (hb.symm.trans hc), ih hlen' (hl.symm.trans hr)]

section
variable {w : List Byte} {k : Nat} {x : Byte}

/-- Marker, CR and LF are fixed, so that another byte in their place fails a structural check. -/
theorem tryDecode_set_fixed (hok : structOk w w.length = true) (hk : k < w.length) (hx : x ≠ byteAt w k)
    (hplace : k = 0 ∨ k = w.length - 2 ∨ k = w.length - 1) : tryDecode (w.set k x) w.length = none := by
  obtain ⟨-, hmarker, hcr, hlf⟩ := structOk_iff.1 hok
  have hself := byteAt_set_self x hk
  rw [tryDecode_eq_ite, List.length_set]
  refine if_neg fun ⟨_, hmarker', hcr', hlf'⟩ => hx ?_
  rcases hplace with rfl | rfl | rfl
  · rw [← hself, hmarker', hmarker]
  · rw [← hself, hcr', hcr]
  · rw [← hself, hlf', hlf]

/-- No structural check reads any other byte. -/
theorem tryDecode_set_free (hok : structOk w w.length = true) (h0 : k ≠ 0) (h2 : k ≠ w.length - 2)
    (h1 : k ≠ w.length - 1) : tryDecode (w.set k x) w.length = some (decodeWindow (w.set k x)) := by
  obtain ⟨-, hmarker, hcr, hlf⟩ := structOk_iff.1 hok
  rw [tryDecode_eq_ite, List.length_set, byteAt_set_ne w x h0, byteAt_set_ne w x h2, byteAt_set_ne w x h1]
  exact if_pos ⟨rfl, hmarker, hcr, hlf⟩

theorem fieldCrc_set_of_lt (hk : k < w.length - 6) : fieldCrc (w.set k x) = fieldCrc w := by
  refine BitVec.eq_of_toNat_eq ?_
  rw [toNat_fieldCrc, toNat_fieldCrc, List.length_set, memRead, slice, List.drop_set_of_lt hk]
  rfl

theorem crcFieldZeroed_set_of_lt (hk : k < w.length - 6) :
    crcFieldZeroed (w.set k x) = (crcFieldZeroed w).set k x := by
  have htake : k < (w.take (w.length - 6)).length := by rw [List.length_take]; omega
  rw [crcFieldZeroed_eq (by rw [List.length_set]; omega), crcFieldZeroed_eq (by omega), List.length_set,
    List.take_set, List.drop_set_of_lt (by omega), List.append_assoc, List.append_assoc, List.set_append_left _ _ htake]

/-- A byte before the CRC field is one the CRC runs over. -/
theorem crcComputed_set_ne (hk : k < w.length - 6) (hx : x ≠ byteAt w k) :
    crcComputed (w.set k x) ≠ crcComputed w := by
  have hzeroed : crcFieldZeroed w = w.take (w.length - 6) ++ ([0, 0, 0, 0] ++ w.drop (w.length - 2)) := by
    rw [crcFieldZeroed_eq (by omega), List.append_assoc]
  have htake : k < (w.take (w.length - 6)).length := by rw [List.length_take]; omega
  have hbyte : byteAt (crcFieldZeroed w) k = byteAt w k := by
    rw [hzeroed, byteAt, List.getD_append _ _ _ _ htake]
    simp only [byteAt, List.getD_eq_getElem?_getD, List.getElem?_take_of_lt hk]
  rw [crcComputed, crcFieldZeroed_set_of_lt hk]
  exact crc32_set_ne (by rw [hzeroed, List.length_append]; omega) (hbyte ▸ hx) _

/-- The working copy does not hold the bytes of the CRC field. -/
theorem crcComputed_set_crcField (hlo : w.length - 6 ≤ k) (hhi : k < w.length - 2) (hlen : 6 ≤ w.length) :
    crcComputed (w.set k x) = crcComputed w := by
  rw [crcComputed, crcComputed, crcFieldZeroed_eq (by rwa [List.length_set]), crcFieldZeroed_eq hlen, List.length_set,
    List.take_set_of_le hlo, List.drop_set_of_lt hhi]

/-- The CRC field is `MemRead` of its four bytes, which determines them. -/
theorem fieldCrc_set_ne (hlo : w.length - 6 ≤ k) (hhi : k < w.length - 2) (hlen : 6 ≤ w.length)
    (hx : x ≠ byteAt w k) :
    fieldCrc (w.set k x) ≠ fieldCrc w := by
  intro h
  have hvalue := congrArg BitVec.toNat h
  rw [toNat_fieldCrc, toNat_fieldCrc, List.length_set] at hvalue
  have hslice := eq_of_beValue_eq (by simp) hvalue
  have hin : k - (w.length - 6) < w.length - 6 + 4 - (w.length - 6) := by omega
  have hbyte := congrArg (·[k - (w.length - 6)]?) hslice
  simp only [getElem?_slice _ hin, Nat.add_sub_cancel' hlo] at hbyte
  refine hx ?_
  rw [← byteAt_set_self x (show k < w.length by omega)]
  simp only [byteAt, List.getD_eq_getElem?_getD, hbyte]

end
end Sys2Proof.Machine

open Sys2Proof Sys2Proof.Machine

/-- Settles O17: the flipped byte is another byte; in its place it fails a structural check, changes the computed CRC
alone, or changes the received CRC alone, and the frame's own two CRCs are equal. -/
theorem singleBitFlipsAreDetected : Obligations.SingleBitFlipsAreDetected := by
  intro addr type payload k i f n w hk hi
  have hlen : f.length = n := (congrArg List.length (encodeFrame_eq addr type payload)).trans (length_frameBytes _ _ _ _)
  obtain ⟨c, hdec⟩ := decodingAnEncodedFrameGivesItBack addr type payload
  obtain ⟨hok, hmsg⟩ := tryDecode_eq_some.1 hdec
  have hcrc : crcComputed f = fieldCrc f :=
    (congrArg DecodedMessage.crcComputed hmsg).trans (congrArg DecodedMessage.crcReceived hmsg).symm
  have hx : f.getD k 0 ^^^ ((1 : Byte) <<< i) ≠ byteAt f k := xor_one_shiftLeft_ne _ hi
  rw [← hlen] at hk ⊢
  replace hok : structOk f f.length = true := by rwa [hlen]
  refine ⟨tryDecode_set_fixed hok hk hx, fun h1 hbefore => ?_, fun hlo hhi => ?_⟩
  · have hrx : fieldCrc w = fieldCrc f := fieldCrc_set_of_lt hbefore
    have hcalc : crcComputed w ≠ crcComputed f := crcComputed_set_ne hbefore hx
    refine ⟨_, tryDecode_set_free hok (by omega) (by omega) (by omega),
      crcCorrect_decodeWindow_eq_false ?_, hrx, hcalc⟩
    exact fun h => hcalc (h.trans (hrx.trans hcrc.symm))
  · have hrx : fieldCrc w ≠ fieldCrc f := fieldCrc_set_ne hlo hhi (by omega) hx
    have hcalc : crcComputed w = crcComputed f := crcComputed_set_crcField hlo hhi (by omega)
    refine ⟨_, tryDecode_set_free hok (by omega) (by omega) (by omega),
      crcCorrect_decodeWindow_eq_false ?_, hrx, hcalc⟩
    exact fun h => hrx (h.symm.trans (hcalc.trans hcrc))
end

section
/-! SCAN_FIXED as a loop: one pass, the equations of the loop, and the induction over its passes
(42_stream_decoder.md R154, R159). -/

namespace Sys2Proof.Machine

@[simp] theorem window_zero (d : Decoder) (n : Nat) : d.window 0 n = d.buf.take n := by
  simp [Decoder.window, slice]

/-- A pass on a structurally valid window (R154). -/
theorem fixedPass_of_message {d : Decoder} {m : DecodedMessage}
    (h : tryDecode (d.buf.take d.cfg.len) d.cfg.len = some m) :
    d.fixedPass = ((d.report (crcEvents m)).dispatch m).dropFront d.cfg.len := by
  rw [Decoder.fixedPass, window_zero, h]

/-- A pass on any other window (R154). -/
theorem fixedPass_of_rejection {d : Decoder} (h : tryDecode (d.buf.take d.cfg.len) d.cfg.len = none) :
    d.fixedPass = (d.report (rejectionEvents (d.buf.take d.cfg.len))).dropFront 1 := by
  rw [Decoder.fixedPass, window_zero, h]

@[simp] theorem fixedPass_cfg (d : Decoder) : d.fixedPass.cfg = d.cfg := (sameRegs_fixedPass d).cfg

theorem scanFixedUpTo_of_short (fuel : Nat) {d : Decoder} (h : d.buf.length < d.cfg.len) :
    Decoder.scanFixedUpTo fuel d = d := by
  cases fuel with
  | zero => rfl
  | succ fuel => exact if_pos h

theorem scanFixedUpTo_succ_of_long (fuel : Nat) {d : Decoder} (h : d.cfg.len ≤ d.buf.length) :
    Decoder.scanFixedUpTo (fuel + 1) d = Decoder.scanFixedUpTo fuel d.fixedPass :=
  if_neg (Nat.not_lt.2 h)

/-- When there are as many passes as bytes, one more does nothing (R159). -/
theorem scanFixedUpTo_succ_of_enough {fuel : Nat} {d : Decoder} (hL : 1 ≤ d.cfg.len)
    (hfuel : d.buf.length ≤ fuel) : Decoder.scanFixedUpTo (fuel + 1) d = Decoder.scanFixedUpTo fuel d := by
  induction fuel generalizing d with
  | zero =>
    have hshort : d.buf.length < d.cfg.len := by omega
    rw [scanFixedUpTo_of_short _ hshort, scanFixedUpTo_of_short _ hshort]
  | succ fuel ih =>
    rcases Nat.lt_or_ge d.buf.length d.cfg.len with hshort | hlong
    · rw [scanFixedUpTo_of_short _ hshort, scanFixedUpTo_of_short _ hshort]
    · have hless := fixedPass_shorter hL hlong
      rw [scanFixedUpTo_succ_of_long _ hlong, scanFixedUpTo_succ_of_long _ hlong]
      exact ih (by rwa [fixedPass_cfg]) (by omega)

/-- The bound on the passes does not matter when it is at least the length of `BUF` (R159). -/
theorem scanFixedUpTo_eq_scanFixed {fuel : Nat} {d : Decoder} (hL : 1 ≤ d.cfg.len)
    (hfuel : d.buf.length ≤ fuel) : Decoder.scanFixedUpTo fuel d = d.scanFixed := by
  induction fuel, hfuel using Nat.le_induction with
  | base => rfl
  | succ fuel hfuel ih => rw [scanFixedUpTo_succ_of_enough hL hfuel, ih]

theorem scanFixed_of_short {d : Decoder} (h : d.buf.length < d.cfg.len) : d.scanFixed = d :=
  scanFixedUpTo_of_short _ h

theorem scanFixed_of_long {d : Decoder} (hL : 1 ≤ d.cfg.len) (h : d.cfg.len ≤ d.buf.length) :
    d.scanFixed = d.fixedPass.scanFixed := by
  rw [← scanFixedUpTo_eq_scanFixed hL (Nat.le_succ _), scanFixedUpTo_succ_of_long _ h]
  exact scanFixedUpTo_eq_scanFixed (by rwa [fixedPass_cfg]) (fixedPass_shorter hL h).le

/-- Induction over the passes of SCAN_FIXED: what holds of a decoder with less than a frame, and before a pass when
it holds after it, holds of every decoder (R154, R159). -/
theorem scanFixed_induction {P : Decoder → Prop} (short : ∀ d, d.buf.length < d.cfg.len → P d)
    (pass : ∀ d, 1 ≤ d.cfg.len → d.cfg.len ≤ d.buf.length → P d.fixedPass → P d)
    {d : Decoder} (hL : 1 ≤ d.cfg.len) : P d := by
  induction hn : d.buf.length using Nat.strong_induction_on generalizing d with
  | _ n ih =>
    rcases Nat.lt_or_ge d.buf.length d.cfg.len with hshort | hlong
    · exact short d hshort
    · have hless := fixedPass_shorter hL hlong
      exact pass d hL hlong (ih _ (hn ▸ hless) (by rwa [fixedPass_cfg]) rfl)

/-- SCAN_FIXED leaves less than a frame (R160). -/
theorem scanFixed_length_lt {d : Decoder} (hL : 1 ≤ d.cfg.len) : d.scanFixed.buf.length < d.cfg.len :=
  scanFixedUpTo_length_lt hL le_rfl

end Sys2Proof.Machine

open Sys2Proof Sys2Proof.Machine

/-- Settles O23: the loop's two equations, and what its pass does with the two answers of TRY_DECODE. -/
theorem scanFixedIsItsLoop : Obligations.ScanFixedIsItsLoop := by
  intro d hL
  split_ifs with hshort
  · exact scanFixed_of_short hshort
  · rw [scanFixed_of_long hL (Nat.le_of_not_lt hshort)]
    cases hm : tryDecode (d.buf.take d.cfg.len) d.cfg.len with
    | some m => rw [fixedPass_of_message hm]
    | none => rw [fixedPass_of_rejection hm]
end

section
/-! The steps of RECEIVE and RESYNC (42_stream_decoder.md R151 to R153, R160). -/

namespace Sys2Proof.Machine

theorem scan_of_fixed {d : Decoder} (h : d.cfg.mode = .fixedLen) : d.scan = d.scanFixed := by
  rw [Decoder.scan, h]

theorem scan_of_variable {d : Decoder} (h : d.cfg.mode = .variableLen) : d.scan = d.scanVar 10 := by
  rw [Decoder.scan, h]
  rfl

theorem exec_receive_of_unconfigured {s : State} {d : Nat} (c : List Byte) (hd : s.hasInst d = true)
    (hc : (s.inst d).configured = false) : exec (.receive d c) s = .refused .notConfigured := by
  simp [exec, execReceive, hd, hc]

/-- A chunk that does not fit sets `OVF` and does nothing else (R166). -/
theorem receive_of_not_fits {cap : Option Nat} {c : List Byte} {d : Decoder} (h0 : d.ovf = false)
    (hfit : fits cap (d.bufLen + c.length) = false) : d.receive cap c = d.raiseOverflow := by
  simp [Decoder.receive, h0, hfit, -bufLen_eq]

/-- A chunk that fits is appended, and RESYNC and the scan run (R151). -/
theorem receive_of_fits {cap : Option Nat} {c : List Byte} {d : Decoder} (h0 : d.ovf = false)
    (hfit : fits cap (d.bufLen + c.length) = true) : d.receive cap c = (d.append c).resync.scan := by
  simp [Decoder.receive, h0, hfit, -bufLen_eq]

theorem receive_fixed_of_fits {cap : Option Nat} {c : List Byte} {d : Decoder} (hf : d.cfg.mode = .fixedLen)
    (h0 : d.ovf = false) (hfit : fits cap (d.bufLen + c.length) = true) :
    d.receive cap c = (d.append c).resync.scanFixed := by
  rw [receive_of_fits h0 hfit]
  exact scan_of_fixed hf

theorem receive_variable_of_fits {cap : Option Nat} {c : List Byte} {d : Decoder}
    (hv : d.cfg.mode = .variableLen) (h0 : d.ovf = false) (hfit : fits cap (d.bufLen + c.length) = true) :
    d.receive cap c = (d.append c).resync.scanVar 10 := by
  rw [receive_of_fits h0 hfit]
  exact scan_of_variable hv

/-- A RECEIVE after which `OVF` is 0 has run its steps (R151, R166). -/
theorem receive_of_not_overflowed {cap : Option Nat} {c : List Byte} {d : Decoder}
    (h : (d.receive cap c).ovf = false) : d.receive cap c = (d.append c).resync.scan := by
  rcases receive_cases cap c d with ⟨h1, hd⟩ | ⟨_, _, hd⟩ | ⟨_, _, hd⟩
  · exact absurd h (by simp [hd, h1])
  · exact absurd h (by simp [hd])
  · exact hd

/-- RESYNC cuts `BUF` in two: bytes without a marker, which it drops, and a rest that is empty or begins with one. -/
theorem resync_split (d : Decoder) :
    ∃ skipped, d.buf = skipped ++ d.resync.buf ∧ (∀ b ∈ skipped, b ≠ Config.startMarker) ∧
      (d.resync.buf = [] ∨ d.resync.buf.head? = some Config.startMarker) := by
  refine ⟨d.buf.takeWhile (· != Config.startMarker), List.takeWhile_append_dropWhile.symm, fun b hb => ?_, ?_⟩
  · simpa using List.mem_takeWhile_imp hb
  · have hhead := List.head?_dropWhile_not (· != Config.startMarker) d.buf
    rw [resync_buf]
    cases hrest : d.buf.dropWhile (· != Config.startMarker) with
    | nil => exact .inl rfl
    | cons b rest => exact .inr (by simpa [hrest] using hhead)

/-- RESYNC does nothing to a buffer that begins with the marker. -/
theorem dropWhile_of_byteAt_zero {f : List Byte} (h : byteAt f 0 = Config.startMarker) :
    f.dropWhile (· != Config.startMarker) = f := by
  cases f with
  | nil => rfl
  | cons b f =>
    have hb : b = Config.startMarker := h
    simp [hb]

/-- RESYNC stops at the latest at a marker that follows. -/
theorem dropWhile_append_of_byteAt_zero (g : List Byte) {f : List Byte} (h : byteAt f 0 = Config.startMarker) :
    (g ++ f).dropWhile (· != Config.startMarker) = g.dropWhile (· != Config.startMarker) ++ f := by
  rw [List.dropWhile_append, dropWhile_of_byteAt_zero h]
  split_ifs with hnil
  · simp [List.isEmpty_iff.1 hnil]
  · rfl

end Sys2Proof.Machine

open Sys2Proof Sys2Proof.Machine

/-- Settles O22: the bytes dropped are those of `resync_split`. -/
theorem resyncDropsToTheMarker : Obligations.ResyncDropsToTheMarker := by
  intro d
  obtain ⟨skipped, hbuf, hskipped, hrest⟩ := resync_split d
  refine ⟨skipped.length, ?_, ?_, hrest⟩
  · rw [hbuf, List.drop_left]
    rfl
  · rw [hbuf, List.take_left]
    exact hskipped

/-- Settles O21: RECEIVE writes its own decoder only, with the result of the branch its guards select. -/
theorem receiveRunsItsSteps : Obligations.ReceiveRunsItsSteps := by
  intro d chunk s x y hd
  refine ⟨exec_receive_of_unconfigured chunk hd, fun hc => ⟨_, exec_receive_of_configured chunk hd hc,
    fun e he => inst_setInst_other _ _ he, rfl, inst_setInst_same .., fun hovf => ?_, fun hovf hlong => ?_,
    fun hovf hfit => ?_⟩⟩
  · rw [inst_setInst_same, receive_of_ovf chunk hovf]
  · rw [inst_setInst_same, receive_of_not_fits hovf (not_fits_iff.2 hlong)]
    rfl
  · rw [inst_setInst_same, receive_of_fits hovf (fits_iff.2 hfit)]
    split_ifs with hmode
    · exact scan_of_fixed hmode
    · refine scan_of_variable ?_
      cases hm : x.cfg.mode with
      | fixedLen => exact absurd hm hmode
      | variableLen => exact hm

/-- Settles O27: a RECEIVE after which `OVF` is 0 has run SCAN_FIXED to its end. -/
theorem fixedReceiveLeavesLessThanAFrame : Obligations.FixedReceiveLeavesLessThanAFrame := by
  intro cap c d hf hL hovf
  have hscan : ((d.append c).resync).scan = ((d.append c).resync).scanFixed := scan_of_fixed hf
  rw [receive_of_not_overflowed hovf, hscan]
  exact scanFixed_length_lt (d := (d.append c).resync) hL
end

section
/-! The candidates of the variable-length search, and the one it accepts (42_stream_decoder.md R155). -/

namespace Sys2Proof.Machine

/-- The order of the search: earlier offset, or the same offset and shorter length (R155). -/
def Earlier (c c' : Nat × Nat) : Prop := c.1 < c'.1 ∨ c.1 = c'.1 ∧ c.2 < c'.2

theorem not_earlier_self (c : Nat × Nat) : ¬ Earlier c c := by
  unfold Earlier
  omega

theorem not_earlier_of_earlier {c c' : Nat × Nat} (h : Earlier c c') : ¬ Earlier c' c := by
  unfold Earlier at *
  omega

theorem eq_of_not_earlier {c c' : Nat × Nat} (h : ¬ Earlier c c') (h' : ¬ Earlier c' c) : c = c' := by
  unfold Earlier at *
  exact Prod.ext (by omega) (by omega)

/-- The candidates lie in the buffer and are at least `MIN_LEN` long. -/
theorem mem_candidates {minLen bufLen off n : Nat} :
    (off, n) ∈ candidates minLen bufLen ↔ off < bufLen ∧ minLen ≤ n ∧ off + n ≤ bufLen := by
  simp only [candidates, List.mem_flatMap, List.mem_range, List.mem_map, List.mem_range'_1, Prod.mk.injEq]
  constructor
  · rintro ⟨_, hoff, _, hn, rfl, rfl⟩
    omega
  · rintro ⟨hoff, hmin, hend⟩
    exact ⟨off, hoff, n, by omega, rfl, rfl⟩

/-- The candidates are listed in the order of the search. -/
theorem candidates_pairwise (minLen bufLen : Nat) : (candidates minLen bufLen).Pairwise Earlier := by
  refine List.pairwise_flatMap.2 ⟨fun off _ => ?_, List.pairwise_lt_range.imp fun hlt => ?_⟩
  · exact List.pairwise_map.2 ((List.pairwise_lt_range' 1).imp fun hlt => .inr ⟨rfl, hlt⟩)
  · intro c hc c' hc'
    obtain ⟨_, _, rfl⟩ := List.mem_map.1 hc
    obtain ⟨_, _, rfl⟩ := List.mem_map.1 hc'
    exact .inl hlt

/-- Of two candidates listed in this order, the second is not earlier. -/
theorem not_earlier_of_candidates_split {minLen bufLen : Nat} {c c' : Nat × Nat} {before after : List (Nat × Nat)}
    (hl : candidates minLen bufLen = before ++ c :: after) (hc' : c' ∈ c :: after) : ¬ Earlier c' c := by
  have hsorted := candidates_pairwise minLen bufLen
  rw [hl, List.pairwise_append] at hsorted
  obtain ⟨_, hrest, _⟩ := hsorted
  rcases List.mem_cons.1 hc' with rfl | hafter
  · exact not_earlier_self _
  · exact not_earlier_of_earlier ((List.pairwise_cons.1 hrest).1 c' hafter)

/-- A candidate of the list that the search accepts is an acceptable one. -/
theorem acceptable_iff {minLen : Nat} {buf : List Byte} {off n : Nat} {m : DecodedMessage} :
    Acceptable minLen buf off n m ↔
      (off, n) ∈ candidates minLen buf.length ∧ accepted buf (off, n) = some m := by
  have hslice : slice buf off (off + n) = (buf.drop off).take n := by rw [slice, Nat.add_sub_cancel_left]
  rw [mem_candidates, accepted_eq_some, hslice, Acceptable]
  tauto

/-- What the search accepts is acceptable, and nothing earlier is. -/
theorem acceptable_of_search_eq_some {minLen : Nat} {buf : List Byte} {off n : Nat} {m : DecodedMessage}
    (h : search minLen buf = some ((off, n), m)) :
    Acceptable minLen buf off n m ∧
      ∀ off' n' m', Earlier (off', n') (off, n) → ¬ Acceptable minLen buf off' n' m' := by
  rcases search_cases minLen buf with ⟨hs, _⟩ | ⟨c, m₁, before, after, hs, hl, hacc, hbefore⟩
  · rw [hs] at h
    cases h
  · obtain ⟨rfl, rfl⟩ : c = (off, n) ∧ m₁ = m := by simpa [hs] using h
    refine ⟨acceptable_iff.2 ⟨by simp [hl], hacc⟩, fun off' n' m' hearlier hacc' => ?_⟩
    obtain ⟨hmem, hacc'⟩ := acceptable_iff.1 hacc'
    rw [hl] at hmem
    rcases List.mem_append.1 hmem with hin | hin
    · simp [hbefore _ hin] at hacc'
    · exact not_earlier_of_candidates_split hl hin hearlier

theorem search_eq_none_iff {minLen : Nat} {buf : List Byte} :
    search minLen buf = none ↔ ∀ off n m, ¬ Acceptable minLen buf off n m := by
  rcases search_cases minLen buf with ⟨hs, hnone⟩ | ⟨⟨off, n⟩, m, _, _, hs, _⟩
  · refine iff_of_true hs fun off n m hacc => ?_
    obtain ⟨hmem, hacc⟩ := acceptable_iff.1 hacc
    simp [hnone _ hmem] at hacc
  · exact iff_of_false (by simp [hs]) fun hnone => hnone off n m (acceptable_of_search_eq_some hs).1

/-- The first acceptable candidate is the one the search accepts: it accepts one, and neither is earlier. -/
theorem search_eq_some_of_acceptable {minLen : Nat} {buf : List Byte} {off n : Nat} {m : DecodedMessage}
    (hacc : Acceptable minLen buf off n m)
    (hfirst : ∀ off' n' m', Earlier (off', n') (off, n) → ¬ Acceptable minLen buf off' n' m') :
    search minLen buf = some ((off, n), m) := by
  rcases hs : search minLen buf with _ | ⟨⟨off', n'⟩, m'⟩
  · exact absurd hacc (search_eq_none_iff.1 hs off n m)
  · obtain ⟨hacc', hfirst'⟩ := acceptable_of_search_eq_some hs
    have hsame : (off', n') = (off, n) :=
      eq_of_not_earlier (fun h => hfirst off' n' m' h hacc') (fun h => hfirst' off n m h hacc)
    have hm : some m' = some m :=
      (acceptable_iff.1 hacc').2.symm.trans (hsame ▸ (acceptable_iff.1 hacc).2)
    rw [hsame, Option.some.inj hm]

end Sys2Proof.Machine

open Sys2Proof Sys2Proof.Machine

/-- Settles O24: the candidates are listed in the order of the search (`candidates_pairwise`), so that the first
accepted in the list is the earliest acceptable one. -/
theorem searchAcceptsTheFirstValidMatch : Obligations.SearchAcceptsTheFirstValidMatch :=
  fun _ _ => ⟨fun _ _ _ => ⟨acceptable_of_search_eq_some, fun ⟨hacc, hfirst⟩ =>
    search_eq_some_of_acceptable hacc hfirst⟩, search_eq_none_iff⟩
end

section
/-! SCAN_VAR as a loop: the equations of the loop, and what it leaves (42_stream_decoder.md R155, R157, R159). -/

namespace Sys2Proof.Machine

/-- What SCAN_VAR does with a candidate its search accepts: the events of the search, DISPATCH, and everything through
the candidate's end dropped (R155). -/
def Decoder.consume (minLen : Nat) (d : Decoder) (c : Nat × Nat) (m : DecodedMessage) : Decoder :=
  ((d.report (searchEvents minLen d.buf)).dispatch m).dropFront (c.1 + c.2)

@[simp] theorem consume_buf (minLen : Nat) (d : Decoder) (c : Nat × Nat) (m : DecodedMessage) :
    (d.consume minLen c m).buf = d.buf.drop (c.1 + c.2) := by
  simp [Decoder.consume]

/-- A buffer shorter than `MIN_LEN` holds no candidate. -/
theorem search_of_short {minLen : Nat} {buf : List Byte} (h : buf.length < minLen) : search minLen buf = none := by
  refine search_eq_none_iff.2 fun off n m hacc => ?_
  obtain ⟨_, hmin, hend, _⟩ := hacc
  omega

/-- Each acceptance removes at least one byte (R159). -/
theorem consume_shorter {minLen : Nat} {d : Decoder} {c : Nat × Nat} {m : DecodedMessage} (h1 : 1 ≤ minLen)
    (hs : search minLen d.buf = some (c, m)) : (d.consume minLen c m).buf.length < d.buf.length := by
  obtain ⟨⟨hoff, hmin, _⟩, _⟩ := acceptable_of_search_eq_some hs
  rw [consume_buf, List.length_drop]
  omega

theorem scanVarUpTo_of_short {minLen : Nat} (fuel : Nat) {d : Decoder} (h : d.buf.length < minLen) :
    Decoder.scanVarUpTo minLen fuel d = d := by
  cases fuel with
  | zero => rfl
  | succ fuel => exact if_pos h

theorem scanVarUpTo_succ_of_none {minLen : Nat} (fuel : Nat) {d : Decoder} (h : minLen ≤ d.buf.length)
    (hs : search minLen d.buf = none) :
    Decoder.scanVarUpTo minLen (fuel + 1) d = d.report (searchEvents minLen d.buf) := by
  have hlong : ¬ d.bufLen < minLen := Nat.not_lt.2 h
  rw [Decoder.scanVarUpTo, if_neg hlong, hs]

theorem scanVarUpTo_succ_of_some {minLen : Nat} (fuel : Nat) {d : Decoder} {c : Nat × Nat} {m : DecodedMessage}
    (hs : search minLen d.buf = some (c, m)) :
    Decoder.scanVarUpTo minLen (fuel + 1) d = Decoder.scanVarUpTo minLen fuel (d.consume minLen c m) := by
  have hlong : ¬ d.bufLen < minLen := fun hshort => by simp [search_of_short hshort] at hs
  rw [Decoder.scanVarUpTo, if_neg hlong, hs]
  rfl

/-- When there are as many searches as bytes, one more does nothing (R159). -/
theorem scanVarUpTo_succ_of_enough {minLen fuel : Nat} {d : Decoder} (h1 : 1 ≤ minLen)
    (hfuel : d.buf.length ≤ fuel) :
    Decoder.scanVarUpTo minLen (fuel + 1) d = Decoder.scanVarUpTo minLen fuel d := by
  induction fuel generalizing d with
  | zero =>
    have hshort : d.buf.length < minLen := by omega
    rw [scanVarUpTo_of_short _ hshort, scanVarUpTo_of_short _ hshort]
  | succ fuel ih =>
    rcases Nat.lt_or_ge d.buf.length minLen with hshort | hlong
    · rw [scanVarUpTo_of_short _ hshort, scanVarUpTo_of_short _ hshort]
    · rcases hs : search minLen d.buf with _ | ⟨c, m⟩
      · rw [scanVarUpTo_succ_of_none _ hlong hs, scanVarUpTo_succ_of_none _ hlong hs]
      · have hless := consume_shorter h1 hs
        rw [scanVarUpTo_succ_of_some _ hs, scanVarUpTo_succ_of_some _ hs, ih (by omega)]

/-- The bound on the searches does not matter when it is at least the length of `BUF` (R159). -/
theorem scanVarUpTo_eq_scanVar {minLen fuel : Nat} {d : Decoder} (h1 : 1 ≤ minLen)
    (hfuel : d.buf.length ≤ fuel) : Decoder.scanVarUpTo minLen fuel d = d.scanVar minLen := by
  induction fuel, hfuel using Nat.le_induction with
  | base => rfl
  | succ fuel hfuel ih => rw [scanVarUpTo_succ_of_enough h1 hfuel, ih]

theorem scanVar_of_short {minLen : Nat} {d : Decoder} (h : d.buf.length < minLen) : d.scanVar minLen = d :=
  scanVarUpTo_of_short _ h

theorem scanVar_of_none {minLen : Nat} {d : Decoder} (h1 : 1 ≤ minLen) (h : minLen ≤ d.buf.length)
    (hs : search minLen d.buf = none) : d.scanVar minLen = d.report (searchEvents minLen d.buf) := by
  rw [← scanVarUpTo_eq_scanVar h1 (Nat.le_succ _), scanVarUpTo_succ_of_none _ h hs]

theorem scanVar_of_some {minLen : Nat} {d : Decoder} {c : Nat × Nat} {m : DecodedMessage} (h1 : 1 ≤ minLen)
    (hs : search minLen d.buf = some (c, m)) : d.scanVar minLen = (d.consume minLen c m).scanVar minLen := by
  rw [← scanVarUpTo_eq_scanVar h1 (Nat.le_succ _), scanVarUpTo_succ_of_some _ hs]
  exact scanVarUpTo_eq_scanVar h1 (consume_shorter h1 hs).le

/-- Without an acceptable candidate SCAN_VAR leaves buffer and invocations as they are (R155). -/
theorem scanVar_buf_out_of_none {minLen : Nat} {d : Decoder} (h1 : 1 ≤ minLen) (hs : search minLen d.buf = none) :
    (d.scanVar minLen).buf = d.buf ∧ (d.scanVar minLen).out = d.out := by
  rcases Nat.lt_or_ge d.buf.length minLen with hshort | hlong
  · rw [scanVar_of_short hshort]
    exact ⟨rfl, rfl⟩
  · rw [scanVar_of_none h1 hlong hs]
    exact ⟨report_buf .., report_out ..⟩

/-- SCAN_VAR leaves a buffer with no acceptable candidate (R155, R157). -/
theorem search_scanVar_eq_none {minLen : Nat} (d : Decoder) (h1 : 1 ≤ minLen) :
    search minLen (d.scanVar minLen).buf = none := by
  induction hn : d.buf.length using Nat.strong_induction_on generalizing d with
  | _ n ih =>
    rcases hs : search minLen d.buf with _ | ⟨c, m⟩
    · rw [(scanVar_buf_out_of_none h1 hs).1, hs]
    · rw [scanVar_of_some h1 hs]
      exact ih _ (hn ▸ consume_shorter h1 hs) _ rfl

/-- Dropping bytes from the front makes no candidate acceptable. -/
theorem search_drop_eq_none {minLen : Nat} {buf : List Byte} (k : Nat) (hs : search minLen buf = none) :
    search minLen (buf.drop k) = none := by
  refine search_eq_none_iff.2 fun off n m ⟨hoff, hmin, hend, hdec, hcrc⟩ => ?_
  rw [List.length_drop] at hoff hend
  rw [List.drop_drop] at hdec
  exact search_eq_none_iff.1 hs (k + off) n m ⟨by omega, hmin, by omega, hdec, hcrc⟩

/-- RECEIVE of a VARIABLE decoder leaves a buffer with no acceptable candidate (R155, R163). -/
theorem search_receive_eq_none {cap : Option Nat} {c : List Byte} {d : Decoder} (hv : d.cfg.mode = .variableLen)
    (hovf : (d.receive cap c).ovf = false) : search 10 (d.receive cap c).buf = none := by
  have hscan : ((d.append c).resync).scan = ((d.append c).resync).scanVar 10 := scan_of_variable hv
  rw [receive_of_not_overflowed hovf, hscan]
  exact search_scanVar_eq_none _ (by decide)

end Sys2Proof.Machine

open Sys2Proof Sys2Proof.Machine

/-- Settles O25: the loop's equations for the two answers of the search. -/
theorem scanVarIsItsLoop : Obligations.ScanVarIsItsLoop := by
  intro minLen d h1
  split_ifs with hshort
  · exact scanVar_of_short hshort
  · rcases hs : search minLen d.buf with _ | ⟨⟨off, n⟩, m⟩
    · exact scanVar_of_none h1 (Nat.le_of_not_lt hshort) hs
    · exact scanVar_of_some h1 hs

/-- Settles O30: the first RECEIVE leaves less than a frame (FIXED) or a buffer with no acceptable candidate
(VARIABLE), and RESYNC only drops bytes from it. -/
theorem emptyChunkInvokesNoHandler : Obligations.EmptyChunkInvokesNoHandler := by
  intro cap c d hL _
  rcases receive_cases cap [] (d.receive cap c) with ⟨_, h⟩ | ⟨_, _, h⟩ | ⟨hovf, _, h⟩
  · rw [h]
  · rw [h, raiseOverflow_out]
  · rw [h]
    obtain ⟨k, hk⟩ := (sameRegs_resync ((d.receive cap c).append [])).buf
    rw [append_buf, List.append_nil] at hk
    cases hmode : d.cfg.mode with
    | fixedLen =>
      have hless : (d.receive cap c).buf.length < d.cfg.len :=
        fixedReceiveLeavesLessThanAFrame cap c d hmode (hL hmode) hovf
      rw [scan_of_fixed (by simpa using hmode), scanFixed_of_short]
      · rfl
      · rw [hk, List.length_drop, resync_cfg, append_cfg, receive_cfg]
        omega
    | variableLen =>
      have hnone := search_drop_eq_none k (search_receive_eq_none hmode hovf)
      rw [scan_of_variable (by simpa using hmode), (scanVar_buf_out_of_none (by decide) (hk ▸ hnone)).2]
      rfl
end

section
/-! What of a FIXED decoder decides its invocations: SCAN_FIXED run in two parts, and RESYNC before or after it
(42_stream_decoder.md R158, R161). -/

namespace Sys2Proof.Machine

/-- What a decoder's later invocations depend on, and the invocations so far: its registers `CFG.*`, `BUF` and
`OUT`. -/
def Decoder.visible (d : Decoder) : Cfg × List Byte × List DecodedMessage := (d.cfg, d.buf, d.out)

theorem visible_eq_iff {d e : Decoder} : d.visible = e.visible ↔ d.cfg = e.cfg ∧ d.buf = e.buf ∧ d.out = e.out := by
  simp [Decoder.visible]

theorem visible_fixedPass_of_message {d : Decoder} {m : DecodedMessage}
    (h : tryDecode (d.buf.take d.cfg.len) d.cfg.len = some m) :
    d.fixedPass.visible = (d.cfg, d.buf.drop d.cfg.len,
      if m.address = d.cfg.target ∧ m.type = d.cfg.type then d.out ++ [m] else d.out) := by
  simp [fixedPass_of_message h, Decoder.visible, dispatch_out]

theorem visible_fixedPass_of_rejection {d : Decoder} (h : tryDecode (d.buf.take d.cfg.len) d.cfg.len = none) :
    d.fixedPass.visible = (d.cfg, d.buf.drop 1, d.out) := by
  simp [fixedPass_of_rejection h, Decoder.visible]

theorem visible_fixedPass_congr {d e : Decoder} (h : d.visible = e.visible) :
    d.fixedPass.visible = e.fixedPass.visible := by
  obtain ⟨hcfg, hbuf, hout⟩ := visible_eq_iff.1 h
  cases hm : tryDecode (d.buf.take d.cfg.len) d.cfg.len with
  | some m =>
    rw [visible_fixedPass_of_message hm, visible_fixedPass_of_message (hcfg ▸ hbuf ▸ hm), hcfg, hbuf, hout]
  | none =>
    rw [visible_fixedPass_of_rejection hm, visible_fixedPass_of_rejection (hcfg ▸ hbuf ▸ hm), hcfg, hbuf, hout]

theorem visible_resync_congr {d e : Decoder} (h : d.visible = e.visible) :
    d.resync.visible = e.resync.visible := by
  obtain ⟨hcfg, hbuf, hout⟩ := visible_eq_iff.1 h
  exact visible_eq_iff.2 ⟨hcfg, by simp [hbuf], hout⟩

theorem visible_scanFixed_congr {d e : Decoder} (hL : 1 ≤ d.cfg.len) (h : d.visible = e.visible) :
    d.scanFixed.visible = e.scanFixed.visible := by
  refine scanFixed_induction (P := fun d => ∀ e : Decoder, d.visible = e.visible →
    d.scanFixed.visible = e.scanFixed.visible) (fun d hshort e h => ?_) (fun d hL hlong ih e h => ?_) hL e h
  all_goals obtain ⟨hcfg, hbuf, _⟩ := visible_eq_iff.1 h
  · rw [scanFixed_of_short hshort, scanFixed_of_short (hcfg ▸ hbuf ▸ hshort), h]
  · rw [scanFixed_of_long hL hlong, scanFixed_of_long (d := e) (hcfg ▸ hL) (hcfg ▸ hbuf ▸ hlong)]
    exact ih _ (visible_fixedPass_congr h)

/-! ### SCAN_FIXED before and after more bytes -/

theorem report_append (d : Decoder) (es : List DiagEvent) (c : List Byte) :
    (d.append c).report es = (d.report es).append c := by
  unfold Decoder.report
  rw [append_cfg]
  split <;> rfl

theorem dispatch_append (d : Decoder) (m : DecodedMessage) (c : List Byte) :
    (d.append c).dispatch m = (d.dispatch m).append c := by
  unfold Decoder.dispatch
  rw [append_cfg]
  split
  · rfl
  · exact report_append d _ c

theorem dropFront_append {d : Decoder} {k : Nat} (c : List Byte) (h : k ≤ d.buf.length) :
    (d.append c).dropFront k = (d.dropFront k).append c := by
  simp [Decoder.append, Decoder.dropFront, List.drop_append_of_le_length h]

/-- A pass reads only the first `CFG.LEN` bytes (R161). -/
theorem fixedPass_append {d : Decoder} (c : List Byte) (hL : 1 ≤ d.cfg.len) (h : d.cfg.len ≤ d.buf.length) :
    (d.append c).fixedPass = d.fixedPass.append c := by
  have hwindow : (d.append c).buf.take (d.append c).cfg.len = d.buf.take d.cfg.len := List.take_append_of_le_length h
  cases hm : tryDecode (d.buf.take d.cfg.len) d.cfg.len with
  | some m =>
    rw [fixedPass_of_message hm, fixedPass_of_message (hwindow ▸ hm), report_append, dispatch_append]
    exact dropFront_append c (by simpa using h)
  | none =>
    rw [fixedPass_of_rejection hm, fixedPass_of_rejection (hwindow ▸ hm), hwindow, report_append]
    exact dropFront_append c (by simpa using hL.trans h)

/-- SCAN_FIXED of the bytes so far, then of what it left and the bytes behind them, is SCAN_FIXED of all (R161). -/
theorem scanFixed_append_scanFixed {d : Decoder} (c : List Byte) (hL : 1 ≤ d.cfg.len) :
    (d.scanFixed.append c).scanFixed = (d.append c).scanFixed := by
  refine scanFixed_induction (P := fun d => (d.scanFixed.append c).scanFixed = (d.append c).scanFixed)
    (fun d hshort => ?_) (fun d hL hlong ih => ?_) hL
  · rw [scanFixed_of_short hshort]
  · have hlong' : (d.append c).cfg.len ≤ (d.append c).buf.length := by
      rw [append_buf, List.length_append]
      exact hlong.trans (Nat.le_add_right _ _)
    rw [scanFixed_of_long hL hlong, ih, scanFixed_of_long (d := d.append c) hL hlong', fixedPass_append c hL hlong]

/-! ### RESYNC before and after SCAN_FIXED -/

@[simp] theorem resync_resync (d : Decoder) : d.resync.resync = d.resync := by
  simp [Decoder.resync, List.dropWhile_idempotent]

/-- A window that does not begin with the marker is rejected (R132, R158). -/
theorem tryDecode_take_cons_of_ne {b : Byte} (rest : List Byte) {n : Nat} (hn : 1 ≤ n)
    (hb : b ≠ Config.startMarker) : tryDecode ((b :: rest).take n) n = none := by
  obtain ⟨n, rfl⟩ := Nat.exists_eq_add_of_le' hn
  refine tryDecode_eq_none.2 (Bool.eq_false_iff.2 fun hok => ?_)
  obtain ⟨_, hmarker, _⟩ := structOk_iff.1 hok
  exact hb hmarker

/-- A byte that RESYNC would drop SCAN_FIXED drops too, in a pass of its own (R158). -/
theorem visible_resync_fixedPass {d : Decoder} {b : Byte} {rest : List Byte} (hL : 1 ≤ d.cfg.len)
    (hbuf : d.buf = b :: rest) (hb : b ≠ Config.startMarker) :
    d.fixedPass.resync.visible = d.resync.visible := by
  have hpass : d.fixedPass.visible = (d.dropFront 1).visible :=
    visible_fixedPass_of_rejection (by rw [hbuf, tryDecode_take_cons_of_ne rest hL hb])
  rw [visible_resync_congr hpass]
  refine visible_eq_iff.2 ⟨rfl, ?_, rfl⟩
  simp [hbuf, hb]

/-- RESYNC before SCAN_FIXED changes no invocation, and of the buffer only bytes that the next RESYNC drops (R158). -/
theorem visible_resync_scanFixed_resync {d : Decoder} (hL : 1 ≤ d.cfg.len) :
    d.resync.scanFixed.resync.visible = d.scanFixed.resync.visible := by
  refine scanFixed_induction (P := fun d => d.resync.scanFixed.resync.visible = d.scanFixed.resync.visible)
    (fun d hshort => ?_) (fun d hL hlong ih => ?_) hL
  · have hshort' : d.resync.buf.length < d.resync.cfg.len := (sameRegs_resync d).length_le.trans_lt hshort
    rw [scanFixed_of_short hshort, scanFixed_of_short hshort', resync_resync]
  · obtain ⟨b, rest, hbuf⟩ := List.exists_cons_of_length_pos (hL.trans hlong)
    by_cases hb : b = Config.startMarker
    · have hsame : d.resync = d := by
        rw [Decoder.resync, dropWhile_of_byteAt_zero (by rw [hbuf]; exact hb)]
      rw [hsame]
    · rw [scanFixed_of_long hL hlong, ← ih]
      exact visible_resync_congr
        (visible_scanFixed_congr (d := d.resync) hL (visible_resync_fixedPass hL hbuf hb).symm)

theorem visible_scanFixed_resync_congr {d e : Decoder} (hL : 1 ≤ d.cfg.len)
    (h : d.resync.visible = e.resync.visible) : d.scanFixed.resync.visible = e.scanFixed.resync.visible := by
  have hcfg : d.cfg = e.cfg := (visible_eq_iff.1 h).1
  rw [← visible_resync_scanFixed_resync hL, ← visible_resync_scanFixed_resync (d := e) (hcfg ▸ hL)]
  exact visible_resync_congr (visible_scanFixed_congr (d := d.resync) hL h)

theorem visible_resync_append_resync (d : Decoder) (c : List Byte) :
    (d.resync.append c).resync.visible = (d.append c).resync.visible := by
  refine visible_eq_iff.2 ⟨rfl, ?_, rfl⟩
  simp only [resync_buf, append_buf, List.dropWhile_append, List.dropWhile_idempotent]

/-- RESYNC and SCAN_FIXED between two chunks change no invocation (R161). -/
theorem visible_scanFixed_append_resync {d : Decoder} (c : List Byte) (hL : 1 ≤ d.cfg.len) :
    ((d.resync.scanFixed.append c).resync.scanFixed).resync.visible =
      ((d.append c).resync.scanFixed).resync.visible := by
  have hcfg : d.resync.scanFixed.cfg = d.cfg := (sameRegs_scanFixedUpTo _ d.resync).cfg
  calc ((d.resync.scanFixed.append c).resync.scanFixed).resync.visible
    _ = (d.resync.scanFixed.append c).scanFixed.resync.visible :=
      visible_resync_scanFixed_resync (by rwa [append_cfg, hcfg])
    _ = (d.resync.append c).scanFixed.resync.visible := by
      rw [scanFixed_append_scanFixed (d := d.resync) c hL]
    _ = (d.append c).scanFixed.resync.visible :=
      visible_scanFixed_resync_congr (d := d.resync.append c) hL (visible_resync_append_resync d c)
    _ = ((d.append c).resync.scanFixed).resync.visible :=
      (visible_resync_scanFixed_resync (d := d.append c) hL).symm

/-- A chunk that fits does not overflow, and RECEIVE keeps no more bytes than there were (R152, R166). -/
theorem receive_ovf_bufLen_of_fits {cap : Option Nat} {c : List Byte} {d : Decoder} (h0 : d.ovf = false)
    (hfit : fits cap (d.bufLen + c.length) = true) :
    (d.receive cap c).ovf = false ∧ (d.receive cap c).bufLen ≤ d.bufLen + c.length := by
  have hregs := (sameRegs_resync (d.append c)).trans (sameRegs_scan _)
  rw [receive_of_fits h0 hfit]
  exact ⟨hregs.ovf.trans h0, by simpa using hregs.length_le⟩

/-- Two chunks received one after the other and at once make the same invocations (R161). -/
theorem receive_append_out {cap : Option Nat} {d : Decoder} (c₁ c₂ : List Byte) (hf : d.cfg.mode = .fixedLen)
    (hL : 1 ≤ d.cfg.len) (h0 : d.ovf = false) (hfit : fits cap (d.bufLen + (c₁ ++ c₂).length) = true) :
    ((d.receive cap c₁).receive cap c₂).out = (d.receive cap (c₁ ++ c₂)).out := by
  have hlen : (c₁ ++ c₂).length = c₁.length + c₂.length := List.length_append
  have hfit₁ : fits cap (d.bufLen + c₁.length) = true := fits_mono hfit (by omega)
  obtain ⟨h0', hless⟩ := receive_ovf_bufLen_of_fits h0 hfit₁
  have hsplit : d.append (c₁ ++ c₂) = (d.append c₁).append c₂ := by simp [Decoder.append]
  rw [receive_fixed_of_fits (by simpa using hf) h0' (fits_mono hfit (by omega)), receive_fixed_of_fits hf h0 hfit₁,
    receive_fixed_of_fits hf h0 hfit, hsplit]
  exact (visible_eq_iff.1 (visible_scanFixed_append_resync (d := d.append c₁) c₂ hL)).2.2

end Sys2Proof.Machine

open Sys2Proof Sys2Proof.Machine

/-- Settles O28: by induction on the chunks, two of which at a time may be received at once. -/
theorem fixedOutputIgnoresChunking : Obligations.FixedOutputIgnoresChunking := by
  intro cap d c cs hf hL h0 hfit
  induction cs generalizing d c with
  | nil =>
    rw [List.flatten_singleton] at hfit ⊢
    exact ⟨rfl, (receive_ovf_bufLen_of_fits h0 hfit).1⟩
  | cons c₂ cs ih =>
    have hsplit : (c :: c₂ :: cs).flatten = c ++ (c₂ :: cs).flatten := List.flatten_cons
    have hlen : (c ++ (c₂ :: cs).flatten).length = c.length + (c₂ :: cs).flatten.length := List.length_append
    rw [hsplit] at hfit ⊢
    obtain ⟨h0', hless⟩ := receive_ovf_bufLen_of_fits h0 (fits_mono (m := d.bufLen + c.length) hfit (by omega))
    obtain ⟨hout, hovf⟩ := ih (d.receive cap c) c₂ (by simpa using hf) (by simpa using hL) h0'
      (fits_mono hfit (by omega))
    exact ⟨hout.trans (receive_append_out c _ hf hL h0 hfit), hovf⟩
end

section
/-! A frame alone in the buffer of a decoder, and behind garbage (42_stream_decoder.md R165; 70_reset_and_hazards.md
R231). -/

namespace Sys2Proof.Machine

theorem one_le_of_structOk {f : List Byte} {e : Nat} (hok : structOk f e = true) : 1 ≤ e := by
  obtain ⟨hlen, hmarker, _⟩ := structOk_iff.1 hok
  cases f with
  | nil => exact absurd hmarker (by decide)
  | cons b f => exact hlen ▸ Nat.succ_pos _

/-- SCAN_FIXED of exactly one structurally valid frame: it is dispatched, and nothing is left (R154). -/
theorem scanFixed_of_frame {f : List Byte} {d : Decoder} (hbuf : d.buf = f) (hok : structOk f d.cfg.len = true) :
    d.scanFixed.buf = [] ∧ d.scanFixed.out =
      if (decodeWindow f).address = d.cfg.target ∧ (decodeWindow f).type = d.cfg.type
      then d.out ++ [decodeWindow f] else d.out := by
  subst hbuf
  obtain ⟨hlen, _⟩ := structOk_iff.1 hok
  have hpos := one_le_of_structOk hok
  have hpass := fixedPass_of_message (d := d) (m := decodeWindow d.buf)
    (by rw [← hlen, List.take_length, hlen]; exact tryDecode_eq_some.2 ⟨hok, rfl⟩)
  have hempty : d.fixedPass.buf = [] := by simp [hpass, hlen]
  rw [scanFixed_of_long hpos hlen.ge, scanFixed_of_short (by rwa [hempty, fixedPass_cfg])]
  exact ⟨hempty, by simp [hpass, dispatch_out]⟩

/-- SCAN_FIXED drops garbage in which no window is structurally valid byte by byte, and dispatches the frame behind
it (R231). -/
theorem scanFixed_of_garbage {g f : List Byte} {d : Decoder} (hbuf : d.buf = g ++ f)
    (hok : structOk f d.cfg.len = true)
    (hg : ∀ i, i < g.length → structOk (((g ++ f).drop i).take d.cfg.len) d.cfg.len = false) :
    d.scanFixed.buf = [] ∧ d.scanFixed.out =
      if (decodeWindow f).address = d.cfg.target ∧ (decodeWindow f).type = d.cfg.type
      then d.out ++ [decodeWindow f] else d.out := by
  induction g generalizing d with
  | nil => exact scanFixed_of_frame hbuf hok
  | cons b g ih =>
    have hlong : d.cfg.len ≤ d.buf.length := by
      rw [hbuf, List.length_append, (structOk_iff.1 hok).1]
      exact Nat.le_add_left ..
    have hpass := fixedPass_of_rejection (d := d)
      (tryDecode_eq_none.2 (by rw [hbuf]; exact hg 0 (Nat.succ_pos _)))
    rw [scanFixed_of_long (one_le_of_structOk hok) hlong]
    have hrest := ih (d := d.fixedPass) (by simp [hpass, hbuf]) (by rwa [fixedPass_cfg]) fun i hi => by
      rw [fixedPass_cfg]
      exact hg (i + 1) (Nat.succ_lt_succ hi)
    have hout : d.fixedPass.out = d.out := by simp [hpass]
    rwa [fixedPass_cfg, hout] at hrest

/-- SCAN_VAR of a buffer that the search accepts whole: the message is dispatched, and nothing is left (R155). -/
theorem scanVar_of_frame {minLen : Nat} {f : List Byte} {d : Decoder} {m : DecodedMessage} (h1 : 1 ≤ minLen)
    (hbuf : d.buf = f) (hs : search minLen f = some ((0, f.length), m)) :
    (d.scanVar minLen).buf = [] ∧ (d.scanVar minLen).out =
      if m.address = d.cfg.target ∧ m.type = d.cfg.type then d.out ++ [m] else d.out := by
  subst hbuf
  have hempty : (d.consume minLen (0, d.buf.length) m).buf = [] := by simp
  rw [scanVar_of_some h1 hs, scanVar_of_short (by rwa [hempty])]
  exact ⟨hempty, by simp [Decoder.consume, dispatch_out]⟩

end Sys2Proof.Machine

open Sys2Proof Sys2Proof.Machine

/-- Settles O31: RESYNC drops a part of the garbage, and SCAN_FIXED the rest of it. -/
theorem fixedResynchronizesAfterGarbage : Obligations.FixedResynchronizesAfterGarbage := by
  intro cap d g f hf h0 hnil _ hfit hok hg haddr htype
  obtain ⟨_, hmarker, _⟩ := structOk_iff.1 hok
  obtain ⟨skipped, hskipped⟩ := List.dropWhile_suffix (l := g) (· != Config.startMarker)
  have hbuf : (d.append (g ++ f)).resync.buf = g.dropWhile (· != Config.startMarker) ++ f := by
    rw [resync_buf, append_buf, hnil, List.nil_append, dropWhile_append_of_byteAt_zero g hmarker]
  rw [receive_fixed_of_fits hf h0 (by simpa [hnil] using hfit)]
  obtain ⟨hempty, hout⟩ := scanFixed_of_garbage (d := (d.append (g ++ f)).resync) hbuf hok fun i hi => by
    have hwindow := hg (skipped.length + i) (by rw [← hskipped, List.length_append]; omega)
    rw [← hskipped, List.append_assoc, ← List.drop_drop, List.drop_left] at hwindow
    exact hwindow
  exact ⟨hout.trans (if_pos ⟨haddr, htype⟩), hempty⟩

/-- Settles O32: RESYNC leaves the frame, the scan consumes it whole, and DISPATCH does not invoke the handler. -/
theorem filteredFramesAreConsumed : Obligations.FilteredFramesAreConsumed := by
  intro cap d f h0 hnil hfit _ hok hfilter hmode
  obtain ⟨_, hmarker, _⟩ := structOk_iff.1 hok
  have hbuf : (d.append f).resync.buf = f := by
    rw [resync_buf, append_buf, hnil, List.nil_append, dropWhile_of_byteAt_zero hmarker]
  have hdrop : ¬ ((decodeWindow f).address = d.cfg.target ∧ (decodeWindow f).type = d.cfg.type) :=
    not_and_or.2 hfilter
  have hfit' : fits cap (d.bufLen + f.length) = true := by simpa [hnil] using hfit
  rcases hmode with ⟨hmode, hlen⟩ | ⟨hmode, hs⟩
  · rw [receive_fixed_of_fits hmode h0 hfit']
    obtain ⟨hempty, hout⟩ := scanFixed_of_frame hbuf (by rw [resync_cfg, append_cfg, hlen]; exact hok)
    exact ⟨hout.trans (if_neg hdrop), hempty⟩
  · rw [receive_variable_of_fits hmode h0 hfit']
    obtain ⟨hempty, hout⟩ := scanVar_of_frame (by decide) hbuf hs
    exact ⟨hout.trans (if_neg hdrop), hempty⟩
end

section
/-! CONFIGURE, DISPATCH, and two chunks of a VARIABLE decoder (42_stream_decoder.md R150, R156, R162). -/

namespace Sys2Proof.Machine

/-- What CONFIGURE writes to its decoder (R150). -/
theorem exec_configure_of_legal {s : State} {d len : Nat} {mode : Mode} (ty tg : Half) (v : Bool)
    (hd : s.hasInst d = true) (hc : (s.inst d).configured = false)
    (hl : legalLength s.params.bufCap mode len = true) :
    exec (.configure d mode len ty tg v) s = .next (s.setInst d { s.inst d with
      cfg := { mode := mode, len := len, type := ty, target := tg, verbose := v }
      configured := true }) := by
  simp [exec, execConfigure, hd, hc, hl]

theorem exec_configure_of_configured {s : State} {d : Nat} (mode : Mode) (len : Nat) (ty tg : Half) (v : Bool)
    (hd : s.hasInst d = true) (hc : (s.inst d).configured = true) :
    exec (.configure d mode len ty tg v) s = .refused .alreadyConfigured := by
  simp [exec, execConfigure, hd, hc]

theorem exec_configure_of_illegal {s : State} {d len : Nat} {mode : Mode} (ty tg : Half) (v : Bool)
    (hd : s.hasInst d = true) (hc : (s.inst d).configured = false)
    (hl : ¬ legalLength s.params.bufCap mode len = true) :
    exec (.configure d mode len ty tg v) s = .refused .badLength := by
  simp [exec, execConfigure, hd, hc, hl]

theorem legalLength_iff {cap : Option Nat} {mode : Mode} {len : Nat} :
    legalLength cap mode len = true ↔
      mode = .variableLen ∨ 10 ≤ len ∧ ∀ c, cap = some c → len ≤ c := by
  cases mode with
  | fixedLen => simp [legalLength_fixed_iff]
  | variableLen => simp [legalLength]

end Sys2Proof.Machine

open Sys2Proof Sys2Proof.Machine

/-- Settles O20: the guards in the order of R150, and the one write. -/
theorem configureBindsOnce : Obligations.ConfigureBindsOnce := by
  intro d mode len ty tg v s hd
  refine ⟨exec_configure_of_configured mode len ty tg v hd, fun hc hmode hbad => ?_, fun hc hl => ?_⟩
  · refine exec_configure_of_illegal ty tg v hd hc fun hl => ?_
    obtain ⟨hten, hcap⟩ := (legalLength_iff.1 hl).resolve_left (by simp [hmode])
    rcases hbad with hshort | ⟨cap, hbuf, hlong⟩
    · omega
    · exact absurd (hcap cap hbuf) (Nat.not_le.2 hlong)
  · exact ⟨_, exec_configure_of_legal ty tg v hd hc (legalLength_iff.2 hl), inst_setInst_same ..,
      fun e he => inst_setInst_other _ _ he, rfl⟩

/-- Settles O26: the two branches of DISPATCH; reporting events writes the diagnostic output only. -/
theorem dispatchFiltersByAddressAndType : Obligations.DispatchFiltersByAddressAndType := by
  refine fun d m => ⟨fun haddr htype => if_pos ⟨haddr, htype⟩, fun hfilter => ?_⟩
  rw [Decoder.dispatch, if_neg (not_and_or.2 hfilter), Decoder.report]
  split <;> rfl

/-- Settles O29: the example of R162, a frame whose payload is a frame. Its first 17 bytes hold the inner frame whole,
which is accepted; all 23 at once hold the outer one, which is accepted first. -/
theorem variableOutputDependsOnChunking : Obligations.VariableOutputDependsOnChunking := by
  refine ⟨{ Decoder.reset with
    cfg := { mode := .variableLen, len := 0, type := 2, target := 2, verbose := false }
    configured := true },
    [0x3A, 0x00, 0x02, 0x00, 0x02,
      0x3A, 0x00, 0x02, 0x00, 0x02, 0x41, 0xE3, 0xF7, 0xDA, 0x59, 0x0D, 0x0A],
    [0xCC, 0x0B, 0x7F, 0xC7, 0x0D, 0x0A], rfl, rfl, rfl, ?_⟩
  decide +kernel
end

section
/-! Well-formedness of what the decoder yields: an answer of each operand reader followed by one operation of a fixed
form (30_encoding.md; 43_dispatcher.md R182; log 2). -/

namespace Sys2Proof

/-- Every operation that a decoder's answer holds is well formed. -/
def YieldsWf (x : Except DecodeError Instr) : Prop := ∀ i, x = .ok i → i.wf = true

theorem yieldsWf_ok {i : Instr} (h : i.wf = true) : YieldsWf (.ok i) := by
  intro j hj
  cases hj
  exact h

theorem yieldsWf_error (e : DecodeError) : YieldsWf (.error e) := fun _ h => nomatch h

/-- Reading an operand first leaves the form of the operation to what follows. -/
theorem yieldsWf_bind {α : Type} {f : α → Except DecodeError Instr} (x : Except DecodeError α)
    (h : ∀ a, YieldsWf (f a)) : YieldsWf (x >>= f) := by
  cases x with
  | error e => exact yieldsWf_error e
  | ok a => exact h a

theorem yieldsWf_noMore {i : Instr} (h : i.wf = true) (bs : List Byte) : YieldsWf (noMore i bs) := by
  cases bs with
  | nil => exact yieldsWf_ok h
  | cons => exact yieldsWf_error _

theorem yieldsWf_decodeCrcInit (bs : List Byte) : YieldsWf (decodeCrcInit bs) := by
  cases bs with
  | nil => exact yieldsWf_ok rfl
  | cons => exact yieldsWf_bind _ fun _ => yieldsWf_noMore rfl _

theorem yieldsWf_decodeCrcByte (bs : List Byte) : YieldsWf (decodeCrcByte bs) := by
  cases bs with
  | nil => exact yieldsWf_error _
  | cons => exact yieldsWf_noMore rfl _

theorem yieldsWf_decodeEncode (bs : List Byte) : YieldsWf (decodeEncode bs) :=
  yieldsWf_bind _ fun _ => yieldsWf_bind _ fun _ => yieldsWf_ok rfl

theorem yieldsWf_decodeTryDecode (bs : List Byte) : YieldsWf (decodeTryDecode bs) :=
  yieldsWf_bind _ fun _ => yieldsWf_ok rfl

theorem yieldsWf_decodeConfigure (bs : List Byte) : YieldsWf (decodeConfigure bs) :=
  yieldsWf_bind _ fun _ => yieldsWf_bind _ fun _ => yieldsWf_bind _ fun _ => yieldsWf_bind _ fun _ =>
    yieldsWf_bind _ fun _ => yieldsWf_bind _ fun _ => yieldsWf_noMore rfl _

theorem yieldsWf_decodeReceive (bs : List Byte) : YieldsWf (decodeReceive bs) :=
  yieldsWf_bind _ fun _ => yieldsWf_ok rfl

theorem yieldsWf_decodeCrc32 (bs : List Byte) : YieldsWf (decodeCrc32 bs) :=
  yieldsWf_bind _ fun _ => yieldsWf_ok rfl

theorem yieldsWf_decodeAddDecoder (bs : List Byte) : YieldsWf (decodeAddDecoder bs) :=
  yieldsWf_bind _ fun _ => yieldsWf_noMore rfl _

/-- The one form with a condition: a chunk that decodes holds a byte (R182). -/
theorem yieldsWf_decodeBroadcast (bs : List Byte) : YieldsWf (decodeBroadcast bs) := by
  cases bs with
  | nil => exact yieldsWf_error _
  | cons => exact yieldsWf_ok rfl

theorem yieldsWf_decodeFrame (bs : List Byte) : YieldsWf (decodeFrame bs) := by
  simp only [decodeFrame]
  split_ifs
  case neg => exact yieldsWf_ok rfl
  all_goals exact yieldsWf_error _

/-- The decoder, select by select. -/
theorem yieldsWf_decode (bytes : List Byte) : YieldsWf (decode bytes) := by
  cases bytes with
  | nil => exact yieldsWf_error _
  | cons sel ops =>
    simp only [decode]
    split
    · exact yieldsWf_ok rfl
    · exact yieldsWf_decodeCrcInit ops
    · exact yieldsWf_decodeCrcByte ops
    · exact yieldsWf_noMore rfl ops
    · exact yieldsWf_decodeEncode ops
    · exact yieldsWf_decodeTryDecode ops
    · exact yieldsWf_decodeConfigure ops
    · exact yieldsWf_decodeReceive ops
    · exact yieldsWf_ok rfl
    · exact yieldsWf_decodeCrc32 ops
    · exact yieldsWf_decodeAddDecoder ops
    · exact yieldsWf_decodeBroadcast ops
    · exact yieldsWf_ok rfl
    · exact yieldsWf_decodeFrame (sel :: ops)
    · exact yieldsWf_error _

end Sys2Proof

open Sys2Proof

/-- Settles O57: only BROADCAST's form has a condition, and its operand reader rejects the empty chunk. -/
theorem decodedOperationsAreWellFormed : Obligations.DecodedOperationsAreWellFormed := yieldsWf_decode
end

section
/-! The environment: registering a decoder, BROADCAST and SEND (43_dispatcher.md R180, R182, R184). -/

namespace Sys2Proof.Machine

/-- ADD_DECODER asks that the decoder exists, and no more (R180; log 9). -/
theorem exec_addDecoder_of_hasInst {s : State} {d : Nat} (h : s.hasInst d = true) :
    exec (.addDecoder d) s = .next { s with decoders := s.decoders ++ [d] } := if_pos h

theorem exec_broadcast_of_running {s : State} (c : List Byte) (h : s.reader = .running) :
    exec (.broadcast c) s = forwardChunk c s := if_pos h

theorem exec_broadcast_of_not_running {s : State} (c : List Byte) (h : s.reader ≠ .running) :
    exec (.broadcast c) s = .refused .readerStopped := if_neg h

/-- An empty read reaches no decoder (R242). -/
@[simp] theorem forwardChunk_nil (s : State) : forwardChunk [] s = .next s := rfl

/-- A chunk that some registered decoder cannot receive is not forwarded (R151; log 10). -/
theorem forwardChunk_of_unconfigured {c : List Byte} {s : State} {d : Nat} (hc : c ≠ []) (hd : d ∈ s.decoders)
    (hconf : (s.inst d).configured = false) : forwardChunk c s = .refused .notConfigured := by
  have hempty : ¬ c.isEmpty = true := by simpa using hc
  have hall : ¬ (s.decoders.all fun d => (s.inst d).configured) = true := fun h =>
    absurd (List.all_eq_true.1 h d hd) (by simp [hconf])
  rw [forwardChunk, if_neg hempty, if_neg hall]

end Sys2Proof.Machine

open Sys2Proof Sys2Proof.Machine

/-- Settles O38: that the decoder exists is all that ADD_DECODER asks. -/
theorem addDecoderRegisters : Obligations.AddDecoderRegisters :=
  fun _ _ hd _ => exec_addDecoder_of_hasInst hd

/-- Settles O39: ADD_DECODER does not look at `CONFIGURED`. -/
theorem addDecoderTakesAnUnconfiguredInstance : Obligations.AddDecoderTakesAnUnconfiguredInstance :=
  fun _ _ hd _ => exec_addDecoder_of_hasInst hd

/-- Settles O40: the chunk is forwarded, which is a RECEIVE for each registration and writes the table of decoders
only. -/
theorem broadcastFeedsEveryDecoder : Obligations.BroadcastFeedsEveryDecoder := by
  refine fun chunk s hr hne hd => ⟨receiveEach chunk s.decoders s, ?_, ?_, ?_⟩
  · rw [exec_broadcast_of_running chunk hr, forwardChunk_of_configured hne hd]
  · exact receiveEach_inst chunk s.decoders s
  · exact receiveEach_frame chunk s.decoders s

/-- Settles O41: the reader task is asked for first; then an empty chunk goes nowhere, and any other needs every
registered decoder configured. -/
theorem broadcastStopsWithoutReader : Obligations.BroadcastStopsWithoutReader := by
  refine fun chunk s => ⟨exec_broadcast_of_not_running chunk, ?_, fun hr => ?_⟩
  · rintro hr hne ⟨d, hd, hconf⟩
    rw [exec_broadcast_of_running chunk hr, forwardChunk_of_unconfigured hne hd hconf]
  · rw [exec_broadcast_of_running [] hr, forwardChunk_nil]

/-- Settles O42: SEND is that one write, whatever the state. -/
theorem sendWritesUnchanged : Obligations.SendWritesUnchanged := fun _ _ => rfl
end

section
/-! The reader task: what ends it, and that nothing starts it again (43_dispatcher.md R186, 70_reset_and_hazards.md
R243; log 19). -/

namespace Sys2Proof.Machine

theorem runAct_transportFailure_of_running {s : State} (h : s.reader = .running) :
    runAct .transportFailure s = .next { s with reader := .failed } :=
  congrArg Host.Outcome.next (if_pos h)

theorem runAct_shutdown_of_running {s : State} (h : s.reader = .running) :
    runAct .shutdown s = .next { s with reader := .shutDown } :=
  congrArg Host.Outcome.next (if_pos h)

/-- Once the reader task has ended, no event of the environment changes anything. -/
theorem runAct_environment_of_not_running {a : Act} {s : State}
    (ha : a = .emptyRead ∨ a = .transportFailure ∨ a = .shutdown) (h : s.reader ≠ .running) :
    runAct a s = .next s := by
  rcases ha with rfl | rfl | rfl
  · rfl
  · exact congrArg Host.Outcome.next (if_neg h)
  · exact congrArg Host.Outcome.next (if_neg h)

theorem forwardChunk_reader {c : List Byte} {s t : State} (ht : forwardChunk c s = .next t) :
    t.reader = s.reader := by
  rcases forwardChunk_cases ht with ⟨_, rfl⟩ | ⟨_, _, rfl⟩
  · rfl
  · have hframe := congrArg State.reader (receiveEach_frame c s.decoders s)
    exact hframe

/-- No operation starts or ends the reader task. -/
theorem exec_reader {i : Instr} {s t : State} (ht : exec i s = .next t) : t.reader = s.reader := by
  rcases exec_cases ht with ⟨_, _, rfl⟩ | ⟨_, _, rfl⟩ | ⟨_, _, _, rfl⟩ |
    ⟨_, _, _, _, _, _, _, _, _, _, rfl⟩ | ⟨_, _, _, _, _, rfl⟩ | ⟨_, _, _, rfl⟩ |
    ⟨_, _, rfl⟩ | ⟨_, _, _, hfwd⟩ | ⟨_, _, rfl⟩
  any_goals rfl
  exact forwardChunk_reader hfwd

theorem runAct_reader_of_not_running {a : Act} {s t : State} (ht : runAct a s = .next t)
    (h : s.reader ≠ .running) : t.reader = s.reader := by
  rcases runAct_cases ht with ⟨_, _, _, _, hi⟩ | ⟨_, rfl⟩ | ⟨_, _, _, rfl⟩ | ⟨ha, _⟩
  · exact exec_reader hi
  · rfl
  · rfl
  · rw [runAct_environment_of_not_running ha h] at ht
    cases ht
    rfl

theorem step_reader_of_not_running {s t : State} (ht : step s = .next t) (h : s.reader ≠ .running) :
    t.reader = s.reader := by
  rcases step_cases ht with ⟨_, rfl⟩ | ⟨_, rest, _, hact, _⟩
  · rfl
  · exact runAct_reader_of_not_running (s := { s with inputs := rest }) hact h

/-- A step with an act pending that no RECEIVE in progress holds up (log 17, log 21). -/
theorem step_of_act {s : State} {a : Act} {rest : List Input}
    (h : s.inputs = { during := none, act := a } :: rest) : step s = runAct a { s with inputs := rest } :=
  step_of_inputs_cons h

end Sys2Proof.Machine

open Sys2Proof Sys2Proof.Machine

/-- Settles O52: the two events write the reader's status only, and only while it runs; no other act writes it. -/
theorem readerEndLeavesDecodersAlone : Obligations.ReaderEndLeavesDecodersAlone := by
  refine ⟨fun s rest hr => ⟨fun hin => ?_, fun hin => ?_⟩, fun s rest hr hin => ?_,
    fun s t => step_reader_of_not_running⟩
  · rw [step_of_act hin]
    exact runAct_transportFailure_of_running hr
  · rw [step_of_act hin]
    exact runAct_shutdown_of_running hr
  · rcases hin with hin | hin
    · rw [step_of_act hin]
      exact runAct_environment_of_not_running (.inr (.inl rfl)) hr
    · rw [step_of_act hin]
      exact runAct_environment_of_not_running (.inr (.inr rfl)) hr
end

section
/-! What RECEIVE hands to the handler, and the diagnostic output: its codes, that no step of RECEIVE reads it, and that
a decoder with `CFG.VERBOSE = 0` writes nothing there (60_exceptions.md R195, R203, R212). -/

namespace Sys2Proof.Machine

/-! ### Forgetting the diagnostics before or after a step -/

@[simp] theorem silent_report (d : Decoder) (es : List DiagEvent) : (d.report es).silent = d.silent := by
  unfold Decoder.report
  split <;> rfl

/-- A decoder without the diagnostics reports nothing. -/
@[simp] theorem report_silent (d : Decoder) (es : List DiagEvent) : d.silent.report es = d.silent := rfl

/-- DISPATCH compares with the registers of the filter only (R156). -/
theorem silent_dispatch (d : Decoder) (m : DecodedMessage) : (d.dispatch m).silent = d.silent.dispatch m := by
  by_cases hm : m.address = d.cfg.target ∧ m.type = d.cfg.type
  · have hm' : m.address = d.silent.cfg.target ∧ m.type = d.silent.cfg.type := hm
    rw [Decoder.dispatch, Decoder.dispatch, if_pos hm, if_pos hm']
    rfl
  · have hm' : ¬ (m.address = d.silent.cfg.target ∧ m.type = d.silent.cfg.type) := hm
    rw [Decoder.dispatch, Decoder.dispatch, if_neg hm, if_neg hm', silent_report, report_silent]

theorem silent_dropFront (d : Decoder) (k : Nat) : (d.dropFront k).silent = d.silent.dropFront k := rfl

theorem silent_fixedPass (d : Decoder) : d.fixedPass.silent = d.silent.fixedPass := by
  cases hm : tryDecode (d.buf.take d.cfg.len) d.cfg.len with
  | some m =>
    rw [fixedPass_of_message hm, fixedPass_of_message (d := d.silent) hm, silent_dropFront, silent_dispatch,
      silent_report, report_silent]
    rfl
  | none =>
    rw [fixedPass_of_rejection hm, fixedPass_of_rejection (d := d.silent) hm, silent_dropFront, silent_report,
      report_silent]

theorem silent_consume (minLen : Nat) (d : Decoder) (c : Nat × Nat) (m : DecodedMessage) :
    (d.consume minLen c m).silent = d.silent.consume minLen c m := by
  rw [Decoder.consume, Decoder.consume, silent_dropFront, silent_dispatch, silent_report, report_silent]

theorem silent_scanFixedUpTo (fuel : Nat) (d : Decoder) :
    (Decoder.scanFixedUpTo fuel d).silent = Decoder.scanFixedUpTo fuel d.silent := by
  induction fuel generalizing d with
  | zero => rfl
  | succ fuel ih =>
    rcases Nat.lt_or_ge d.buf.length d.cfg.len with hshort | hlong
    · rw [scanFixedUpTo_of_short _ hshort, scanFixedUpTo_of_short (d := d.silent) _ hshort]
    · rw [scanFixedUpTo_succ_of_long _ hlong, scanFixedUpTo_succ_of_long (d := d.silent) _ hlong, ih,
        silent_fixedPass]

theorem silent_scanVarUpTo (minLen fuel : Nat) (d : Decoder) :
    (Decoder.scanVarUpTo minLen fuel d).silent = Decoder.scanVarUpTo minLen fuel d.silent := by
  induction fuel generalizing d with
  | zero => rfl
  | succ fuel ih =>
    rcases Nat.lt_or_ge d.buf.length minLen with hshort | hlong
    · rw [scanVarUpTo_of_short _ hshort, scanVarUpTo_of_short (d := d.silent) _ hshort]
    · rcases hs : search minLen d.buf with _ | ⟨c, m⟩
      · rw [scanVarUpTo_succ_of_none _ hlong hs, scanVarUpTo_succ_of_none (d := d.silent) _ hlong hs, silent_report,
          report_silent]
      · rw [scanVarUpTo_succ_of_some _ hs, scanVarUpTo_succ_of_some (d := d.silent) _ hs, ih, silent_consume]

theorem silent_scan (d : Decoder) : d.scan.silent = d.silent.scan := by
  cases hmode : d.cfg.mode with
  | fixedLen =>
    rw [scan_of_fixed hmode, scan_of_fixed (d := d.silent) hmode]
    exact silent_scanFixedUpTo _ d
  | variableLen =>
    rw [scan_of_variable hmode, scan_of_variable (d := d.silent) hmode]
    exact silent_scanVarUpTo _ _ d

theorem silent_receive (cap : Option Nat) (c : List Byte) (d : Decoder) :
    (d.receive cap c).silent = d.silent.receive cap c := by
  rcases receive_cases cap c d with ⟨h1, h⟩ | ⟨h0, hfit, h⟩ | ⟨h0, hfit, h⟩
  · rw [h, receive_of_ovf (d := d.silent) c h1]
  · rw [h, receive_of_not_fits (d := d.silent) h0 hfit]
    rfl
  · rw [h, receive_of_fits (d := d.silent) h0 hfit, silent_scan]
    rfl

/-! ### A decoder that is not verbose -/

/-- The step from `d` to `d'` emits no event when `CFG.VERBOSE = 0` (R212). -/
def QuietStep (d d' : Decoder) : Prop := d'.cfg = d.cfg ∧ (d.cfg.verbose = false → d'.diag = d.diag)

theorem QuietStep.refl (d : Decoder) : QuietStep d d := ⟨rfl, fun _ => rfl⟩

theorem QuietStep.trans {a b c : Decoder} (h : QuietStep a b) (g : QuietStep b c) : QuietStep a c := by
  obtain ⟨hcfg, hdiag⟩ := h
  obtain ⟨gcfg, gdiag⟩ := g
  exact ⟨gcfg.trans hcfg, fun hv => (gdiag (hcfg ▸ hv)).trans (hdiag hv)⟩

theorem quietStep_report (d : Decoder) (es : List DiagEvent) : QuietStep d (d.report es) :=
  ⟨report_cfg d es, fun hv => by simp [hv]⟩

theorem quietStep_dropFront (d : Decoder) (k : Nat) : QuietStep d (d.dropFront k) := ⟨rfl, fun _ => rfl⟩

theorem quietStep_dispatch (d : Decoder) (m : DecodedMessage) : QuietStep d (d.dispatch m) := by
  unfold Decoder.dispatch
  split
  · exact ⟨rfl, fun _ => rfl⟩
  · exact quietStep_report d _

/-- The common work of both scans: events, DISPATCH, bytes dropped (R154, R155). -/
theorem quietStep_report_dispatch_dropFront (d : Decoder) (es : List DiagEvent) (m : DecodedMessage) (k : Nat) :
    QuietStep d (((d.report es).dispatch m).dropFront k) :=
  ((quietStep_report d es).trans (quietStep_dispatch _ m)).trans (quietStep_dropFront _ k)

theorem quietStep_fixedPass (d : Decoder) : QuietStep d d.fixedPass := by
  unfold Decoder.fixedPass
  split
  · exact quietStep_report_dispatch_dropFront ..
  · exact (quietStep_report ..).trans (quietStep_dropFront ..)

theorem quietStep_scanFixedUpTo (fuel : Nat) (d : Decoder) : QuietStep d (Decoder.scanFixedUpTo fuel d) := by
  induction fuel generalizing d with
  | zero => exact .refl d
  | succ fuel ih =>
    unfold Decoder.scanFixedUpTo
    split
    · exact .refl d
    · exact (quietStep_fixedPass d).trans (ih _)

theorem quietStep_scanVarUpTo (minLen fuel : Nat) (d : Decoder) :
    QuietStep d (Decoder.scanVarUpTo minLen fuel d) := by
  induction fuel generalizing d with
  | zero => exact .refl d
  | succ fuel ih =>
    unfold Decoder.scanVarUpTo
    split
    · exact .refl d
    · split
      · exact quietStep_report ..
      · exact (quietStep_report_dispatch_dropFront ..).trans (ih _)

theorem quietStep_scan (d : Decoder) : QuietStep d d.scan := by
  unfold Decoder.scan
  split
  · exact quietStep_scanFixedUpTo _ d
  · exact quietStep_scanVarUpTo _ _ d

theorem quietStep_receive (cap : Option Nat) (c : List Byte) (d : Decoder) : QuietStep d (d.receive cap c) := by
  rcases receive_cases cap c d with ⟨_, h⟩ | ⟨_, _, h⟩ | ⟨_, _, h⟩
  · rw [h]
    exact .refl d
  · rw [h]
    exact ⟨rfl, fun _ => rfl⟩
  · rw [h]
    exact QuietStep.trans ⟨rfl, fun _ => rfl⟩ (quietStep_scan (d.append c).resync)

end Sys2Proof.Machine

open Sys2Proof Sys2Proof.Machine

/-- Settles O37: the table of R195, read off entry by entry. -/
theorem diagnosticCodes : Obligations.DiagnosticCodes :=
  ⟨fun _ => rfl, rfl, fun _ => rfl, rfl, rfl, rfl, rfl, rfl, rfl, rfl, rfl, rfl⟩

/-- Settles O33: `handsOver_receive` follows the scans; `messageOk` is what R203 says of one message. -/
theorem invocationsMatchTheConfiguration : Obligations.InvocationsMatchTheConfiguration := by
  intro cap c d
  obtain ⟨ms, hout, hms⟩ := handsOver_receive cap c d
  exact ⟨ms, hout, fun m hm => messageOk_iff.1 (hms m hm)⟩

/-- Settles O34: every step of RECEIVE commutes with forgetting the diagnostics, and reports only when verbose. -/
theorem diagnosticsInfluenceNothing : Obligations.DiagnosticsInfluenceNothing := by
  intro cap c d
  obtain ⟨_, hdiag⟩ := quietStep_receive cap c d
  exact ⟨silent_receive cap c d, hdiag⟩
end

section
/-! The events a verbose decoder emits: of a window that is passed over, of DISPATCH, of a pass of SCAN_FIXED, and of a
search (60_exceptions.md R191 to R193, R200, R201, R212; log 15, log 16). -/

namespace Sys2Proof.Machine

theorem report_diag_of_verbose {d : Decoder} (hv : d.cfg.verbose = true) (es : List DiagEvent) :
    (d.report es).diag = d.diag ++ es := by
  rw [report_diag, if_pos hv]

/-! ### The events of one message -/

/-- What the filter of DISPATCH finds wrong with a message, address before type (R193, R201). -/
def filterEvents (cfg : Cfg) (m : DecodedMessage) : List DiagEvent :=
  if m.address ≠ cfg.target then [.mismatch .address]
  else if m.type ≠ cfg.type then [.mismatch .type]
  else []

theorem filterEvents_of_address_ne {cfg : Cfg} {m : DecodedMessage} (h : m.address ≠ cfg.target) :
    filterEvents cfg m = [.mismatch .address] := if_pos h

theorem filterEvents_of_type_ne {cfg : Cfg} {m : DecodedMessage} (haddr : m.address = cfg.target)
    (htype : m.type ≠ cfg.type) : filterEvents cfg m = [.mismatch .type] := by
  rw [filterEvents, if_neg (not_not_intro haddr), if_pos htype]

theorem filterEvents_of_match {cfg : Cfg} {m : DecodedMessage} (haddr : m.address = cfg.target)
    (htype : m.type = cfg.type) : filterEvents cfg m = [] := by
  rw [filterEvents, if_neg (not_not_intro haddr), if_neg (not_not_intro htype)]

theorem mismatchEvents_of_correct {cfg : Cfg} {m : DecodedMessage} (h : m.crcCorrect = true) :
    mismatchEvents cfg m = filterEvents cfg m :=
  if_pos (by rw [h, Bool.true_or])

/-- After a CRC mismatch the free value decides whether the filter's finding is reported (log 16). -/
theorem mismatchEvents_of_incorrect (cfg : Cfg) {m : DecodedMessage} (h : m.crcCorrect = false) :
    mismatchEvents cfg m = [] ∨ mismatchEvents cfg m = filterEvents cfg m := by
  cases hfree : Config.reportsDropAfterBadCrc with
  | false => exact .inl (if_neg (by simp [h, hfree]))
  | true => exact .inr (if_pos (by simp [hfree]))

theorem mismatchEvents_of_match {cfg : Cfg} {m : DecodedMessage} (haddr : m.address = cfg.target)
    (htype : m.type = cfg.type) : mismatchEvents cfg m = [] := by
  have hfilter := filterEvents_of_match haddr htype
  cases hcrc : m.crcCorrect with
  | false => exact (mismatchEvents_of_incorrect cfg hcrc).elim id (·.trans hfilter)
  | true => exact (mismatchEvents_of_correct hcrc).trans hfilter

theorem crcEvents_of_correct {m : DecodedMessage} (h : m.crcCorrect = true) : crcEvents m = [] := if_pos h

theorem crcEvents_of_incorrect {m : DecodedMessage} (h : m.crcCorrect = false) : crcEvents m = [.crcMismatch] :=
  if_neg (by rw [h]; decide)

/-- DISPATCH of a verbose decoder reports the mismatch, of which a message with both fields equal has none. -/
theorem dispatch_diag_of_verbose {d : Decoder} (hv : d.cfg.verbose = true) (m : DecodedMessage) :
    (d.dispatch m).diag = d.diag ++ mismatchEvents d.cfg m := by
  by_cases hm : m.address = d.cfg.target ∧ m.type = d.cfg.type
  · obtain ⟨haddr, htype⟩ := hm
    rw [Decoder.dispatch, if_pos ⟨haddr, htype⟩, mismatchEvents_of_match haddr htype, List.append_nil, emit_diag]
  · rw [Decoder.dispatch, if_neg hm, report_diag_of_verbose hv]

/-- Events, then DISPATCH: the common work of both scans (R154, R155). -/
theorem dispatch_report_diag_of_verbose {d : Decoder} (hv : d.cfg.verbose = true) (es : List DiagEvent)
    (m : DecodedMessage) :
    ((d.report es).dispatch m).diag = d.diag ++ es ++ mismatchEvents d.cfg m := by
  rw [dispatch_diag_of_verbose (by rwa [report_cfg]), report_diag_of_verbose hv, report_cfg]

/-! ### The events of one pass of SCAN_FIXED -/

/-- A structural rejection names the failing check, for a window of the expected length. -/
theorem rejectionEvents_of_structFailure {w : List Byte} {n : Nat} {cause : StructCause} (hlen : w.length = n)
    (h : structFailure w n = some cause) : rejectionEvents w = [.structural cause] := by
  subst hlen
  rw [rejectionEvents, h]

theorem structOk_eq_false_of_structFailure {w : List Byte} {n : Nat} {cause : StructCause}
    (h : structFailure w n = some cause) : structOk w n = false := by
  rw [structOk, h]
  rfl

theorem fixedPass_diag_of_structFailure {d : Decoder} {cause : StructCause} (hv : d.cfg.verbose = true)
    (hlong : d.cfg.len ≤ d.buf.length) (h : structFailure (d.buf.take d.cfg.len) d.cfg.len = some cause) :
    d.fixedPass.diag = d.diag ++ [.structural cause] := by
  rw [fixedPass_of_rejection (tryDecode_eq_none.2 (structOk_eq_false_of_structFailure h)), dropFront_diag,
    report_diag_of_verbose hv, rejectionEvents_of_structFailure (List.length_take_of_le hlong) h]

theorem fixedPass_diag_of_structOk {d : Decoder} (hv : d.cfg.verbose = true)
    (h : structOk (d.buf.take d.cfg.len) d.cfg.len = true) :
    d.fixedPass.diag = d.diag ++ (crcEvents (decodeWindow (d.buf.take d.cfg.len)) ++
      mismatchEvents d.cfg (decodeWindow (d.buf.take d.cfg.len))) := by
  rw [fixedPass_of_message (tryDecode_eq_some.2 ⟨h, rfl⟩), dropFront_diag, dispatch_report_diag_of_verbose hv,
    List.append_assoc]

theorem fixedPass_diag_of_correct {d : Decoder} (hv : d.cfg.verbose = true)
    (h : structOk (d.buf.take d.cfg.len) d.cfg.len = true)
    (hcrc : (decodeWindow (d.buf.take d.cfg.len)).crcCorrect = true) :
    d.fixedPass.diag = d.diag ++ filterEvents d.cfg (decodeWindow (d.buf.take d.cfg.len)) := by
  rw [fixedPass_diag_of_structOk hv h, crcEvents_of_correct hcrc, mismatchEvents_of_correct hcrc, List.nil_append]

/-- With a wrong CRC the filter's finding follows the CRC mismatch or does not (log 16). -/
theorem fixedPass_diag_of_incorrect {d : Decoder} (hv : d.cfg.verbose = true)
    (h : structOk (d.buf.take d.cfg.len) d.cfg.len = true)
    (hcrc : (decodeWindow (d.buf.take d.cfg.len)).crcCorrect = false) :
    d.fixedPass.diag = d.diag ++ [.crcMismatch] ∨
    d.fixedPass.diag = d.diag ++ .crcMismatch :: filterEvents d.cfg (decodeWindow (d.buf.take d.cfg.len)) := by
  rw [fixedPass_diag_of_structOk hv h, crcEvents_of_incorrect hcrc]
  rcases mismatchEvents_of_incorrect d.cfg hcrc with hnone | hfilter
  · exact .inl (by rw [hnone, List.append_nil])
  · exact .inr (by rw [hfilter, List.singleton_append])

/-! ### The events of one search -/

/-- The one event of a candidate that is passed over: its first failing structural check, or else its wrong CRC. -/
def candidateEvent (buf : List Byte) (c : Nat × Nat) : DiagEvent :=
  match structFailure ((buf.drop c.1).take c.2) c.2 with
  | some cause => .structural cause
  | none => .crcMismatch

theorem slice_length_of_mem_candidates {minLen : Nat} {buf : List Byte} {c : Nat × Nat}
    (h : c ∈ candidates minLen buf.length) : (slice buf c.1 (c.1 + c.2)).length = c.2 := by
  obtain ⟨_, _, hend⟩ := mem_candidates.1 h
  rw [slice, List.length_take, List.length_drop]
  omega

/-- A candidate that is not accepted has that event, and no other (R191, R192). -/
theorem passedOverEvents_of_mem {minLen : Nat} {buf : List Byte} {c : Nat × Nat}
    (hc : c ∈ candidates minLen buf.length) (hacc : accepted buf c = none) :
    passedOverEvents buf c = [candidateEvent buf c] := by
  have hslice : slice buf c.1 (c.1 + c.2) = (buf.drop c.1).take c.2 := by rw [slice, Nat.add_sub_cancel_left]
  have hlen := slice_length_of_mem_candidates hc
  rw [candidateEvent, ← hslice]
  cases hfail : structFailure (slice buf c.1 (c.1 + c.2)) c.2 with
  | some cause =>
    rw [passedOverEvents, tryDecode_eq_none.2 (structOk_eq_false_of_structFailure hfail)]
    exact rejectionEvents_of_structFailure hlen hfail
  | none =>
    have hdec : tryDecode (slice buf c.1 (c.1 + c.2)) c.2 = some (decodeWindow (slice buf c.1 (c.1 + c.2))) :=
      tryDecode_eq_some.2 ⟨by rw [structOk, hfail]; rfl, rfl⟩
    rw [passedOverEvents, hdec]
    refine crcEvents_of_incorrect (Bool.eq_false_iff.2 fun hcrc => ?_)
    simp [accepted_eq_some.2 ⟨hdec, hcrc⟩] at hacc

/-- The events of a search that passes over `before` and nothing else, one for each candidate. -/
theorem searchEvents_eq_map {minLen : Nat} {buf : List Byte} {before after : List (Nat × Nat)}
    (hl : candidates minLen buf.length = before ++ after) (hb : ∀ x ∈ before, accepted buf x = none)
    (ha : ∀ x ∈ after.head?, accepted buf x ≠ none) :
    searchEvents minLen buf = before.map (candidateEvent buf) := by
  rw [searchEvents_of_split hl hb ha, List.map_eq_flatMap]
  exact List.flatMap_congr fun c hc =>
    passedOverEvents_of_mem (hl ▸ List.mem_append_left after hc) (hb c hc)

/-- A search that accepts nothing passes over every candidate. -/
theorem searchEvents_of_none {minLen : Nat} {buf : List Byte} (hs : search minLen buf = none) :
    searchEvents minLen buf = (candidates minLen buf.length).map (candidateEvent buf) := by
  rcases search_cases minLen buf with ⟨_, hnone⟩ | ⟨c, m, _, _, hs', _⟩
  · exact searchEvents_eq_map (List.append_nil _).symm hnone (by simp)
  · simp [hs'] at hs

/-- A search that accepts a candidate passes over those before it. -/
theorem searchEvents_of_some {minLen : Nat} {buf : List Byte} {c : Nat × Nat} {m : DecodedMessage}
    (hs : search minLen buf = some (c, m)) :
    m.crcCorrect = true ∧ ∃ before after, candidates minLen buf.length = before ++ c :: after ∧
      searchEvents minLen buf = before.map (candidateEvent buf) := by
  rcases search_cases minLen buf with ⟨hs', _⟩ | ⟨c', m', before, after, hs', hl, hacc, hbefore⟩
  · simp [hs'] at hs
  · obtain ⟨rfl, rfl⟩ : c' = c ∧ m' = m := by simpa [hs'] using hs
    obtain ⟨_, hcrc⟩ := accepted_eq_some.1 hacc
    exact ⟨hcrc, before, after, hl, searchEvents_eq_map hl hbefore (by simp [hacc])⟩

end Sys2Proof.Machine

open Sys2Proof Sys2Proof.Machine

/-- Settles O35: a rejected window has its structural event; a valid one its CRC event, if any, and after it what the
filter finds, which the free value may drop after a wrong CRC. -/
theorem verboseFixedPassReports : Obligations.VerboseFixedPassReports := by
  intro d hv hlong
  refine ⟨fun _ => fixedPass_diag_of_structFailure hv hlong, fun hok hcrc haddr htype => ?_,
    fun hok hcrc haddr => ?_, fun hok hcrc haddr htype => ?_, fun hok hcrc haddr => ?_,
    fun hok hcrc haddr htype => ?_, fun hok hcrc haddr htype => ?_⟩
  · have hdiag := fixedPass_diag_of_incorrect hv hok hcrc
    rwa [filterEvents_of_match haddr htype, or_self] at hdiag
  · rw [fixedPass_diag_of_correct hv hok hcrc, filterEvents_of_address_ne haddr]
  · rw [fixedPass_diag_of_correct hv hok hcrc, filterEvents_of_type_ne haddr htype]
  · have hdiag := fixedPass_diag_of_incorrect hv hok hcrc
    rwa [filterEvents_of_address_ne haddr] at hdiag
  · have hdiag := fixedPass_diag_of_incorrect hv hok hcrc
    rwa [filterEvents_of_type_ne haddr htype] at hdiag
  · rw [fixedPass_diag_of_correct hv hok hcrc, filterEvents_of_match haddr htype, List.append_nil]

/-- Settles O36: every candidate passed over has exactly one event (`passedOverEvents_of_mem`); an accepted one has a
correct CRC, so that DISPATCH reports what its filter finds. -/
theorem verboseSearchReports : Obligations.VerboseSearchReports := by
  refine fun minLen d hv => ⟨fun hs hlong h1 => ?_, fun off n m hs => ?_⟩
  · rw [scanVar_of_none h1 hlong hs, report_diag_of_verbose hv, searchEvents_of_none hs]
    rfl
  · obtain ⟨hcrc, before, after, hl, hevents⟩ := searchEvents_of_some hs
    refine ⟨before, after, hl, ?_⟩
    rw [dispatch_report_diag_of_verbose hv, hevents, mismatchEvents_of_correct hcrc]
    rfl
end

section
/-! Acts made while a RECEIVE is in progress (60_exceptions.md R205, 70_reset_and_hazards.md R220, R227; log 17,
log 18). -/

namespace Sys2Proof.Machine

theorem busy_iff {p : InProgress} {e : Nat} : p.busy e = true ↔ e = p.decoder ∨ e ∈ p.feeds := by
  simp [InProgress.busy]

/-- The operations refused during a RECEIVE: another RECEIVE, CONFIGURE or BROADCAST, of a busy decoder. -/
theorem blocksInstr_iff {s : State} {p : InProgress} {i : Instr} :
    s.blocksInstr p i = true ↔
      (∃ e c, i = .receive e c ∧ p.busy e = true) ∨
      (∃ mode len ty tg v, i = .configure p.decoder mode len ty tg v) ∨
      ∃ c, i = .broadcast c ∧ ∃ e ∈ s.decoders, p.busy e = true := by
  cases i with
  | receive e c => simp [State.blocksInstr]
  | configure e mode len ty tg v => simp [State.blocksInstr]
  | broadcast c => simp [State.blocksInstr]
  | _ => simp [State.blocksInstr]

/-- The acts refused during a RECEIVE: the resets of what is busy, and the operations of `blocksInstr_iff`. -/
theorem blocksAct_iff {s : State} {p : InProgress} {a : Act} :
    s.blocksAct p a = true ↔
      a = .reset ∨ (∃ e, a = .resetDecoder e ∧ p.busy e = true) ∨
        ∃ bytes i, a = .request bytes ∧ decode bytes = .ok i ∧ s.blocksInstr p i = true := by
  cases a with
  | request bytes => cases hdec : decode bytes <;> simp [State.blocksAct, hdec]
  | resetDecoder e => simp [State.blocksAct]
  | _ => simp [State.blocksAct]

theorem step_during_of_blocked {s : State} {rest : List Input} {p : InProgress} {a : Act}
    (hin : s.inputs = { during := some p, act := a } :: rest) (hb : s.blocksAct p a = true) :
    step s = .refused .decoderBusy := by
  rw [step_of_inputs_cons hin]
  exact if_pos hb

/-- An act that is not refused does what it does with no RECEIVE in progress (log 17). -/
theorem step_during_of_not_blocked {s : State} {rest : List Input} {p : InProgress} {a : Act}
    (hin : s.inputs = { during := some p, act := a } :: rest) (hb : ¬ s.blocksAct p a = true) :
    step s = step { s with inputs := { during := none, act := a } :: rest } := by
  rw [step_of_inputs_cons hin]
  exact if_neg hb

end Sys2Proof.Machine

open Sys2Proof Sys2Proof.Machine

/-- Settles O53: the two outcomes of a marked input, and which acts `State.blocksAct` refuses. -/
theorem noReentryDuringReceive : Obligations.NoReentryDuringReceive := by
  intro s rest p a hin busy refusedThen
  have hblocks : s.blocksAct p a = true ↔ refusedThen := by
    simp only [blocksAct_iff, blocksInstr_iff, busy_iff, refusedThen, busy]
  exact ⟨fun h => step_during_of_blocked hin (hblocks.2 h),
    fun h => step_during_of_not_blocked hin (hblocks.not.2 h)⟩
end

section
/-! What reset alone does to a decoder, and the events that reach none (70_reset_and_hazards.md R220, R221, R242). -/

namespace Sys2Proof.Machine

/-- RECEIVEs do not touch what CONFIGURE has bound (R30, R221). -/
theorem receive_iterate_configured_cfg (cap : Option Nat) (c : List Byte) (k : Nat) (d : Decoder) :
    ((fun x => x.receive cap c)^[k] d).configured = d.configured ∧
      ((fun x => x.receive cap c)^[k] d).cfg = d.cfg :=
  Function.Iterate.rec (fun x : Decoder => x.configured = d.configured ∧ x.cfg = d.cfg) ⟨rfl, rfl⟩
    (fun x hx => by rwa [receive_configured, receive_cfg]) k

theorem step_keeps_configuration {s t : State} {d : Nat} (ht : step s = .next t) (hr : ¬ s.resetsNext d)
    (hc : (s.inst d).configured = true) :
    (t.inst d).configured = true ∧ (t.inst d).cfg = (s.inst d).cfg := by
  rcases step_inst_cases ht d with hd | ⟨_, _, hno, _⟩ | ⟨_, c, k, _, _, hd⟩ | ⟨hreset, _⟩
  · rw [hd]
    exact ⟨hc, rfl⟩
  · exact absurd hc (by simp [hno])
  · obtain ⟨hconf, hcfg⟩ := receive_iterate_configured_cfg s.params.bufCap c k (s.inst d)
    rw [hd]
    exact ⟨hconf.trans hc, hcfg⟩
  · exact absurd hreset hr

/-- Without a reset a buffer changes only when its decoder is fed a chunk (R221). -/
theorem step_feeds_of_buf_ne {s t : State} {d : Nat} (ht : step s = .next t) (hr : ¬ s.resetsNext d)
    (hne : (t.inst d).buf ≠ (s.inst d).buf) : ∃ i c, s.nextInstr = some i ∧ Feeds i s d c := by
  rcases step_inst_cases ht d with hd | ⟨_, _, _, hd⟩ | ⟨i, c, _, hi, hf, _⟩ | ⟨hreset, _⟩
  · exact absurd (congrArg Decoder.buf hd) hne
  · exact absurd (congrArg Decoder.buf hd) hne
  · exact ⟨i, c, hi, hf⟩
  · exact absurd hreset hr

end Sys2Proof.Machine

open Sys2Proof Sys2Proof.Machine

/-- Settles O49: a step that is no reset leaves the decoder, configures it for the first time, or feeds it a chunk, and
RECEIVE writes neither its configuration nor `OVF` once that is set. -/
theorem onlyResetClearsADecoder : Obligations.OnlyResetClearsADecoder := by
  refine fun s t d ht hr => ⟨step_keeps_ovf ht hr, step_keeps_configuration ht hr, fun hne => ?_⟩
  obtain ⟨i, c, hi, rfl | ⟨hd, rfl | ⟨a, ty, p, crc, rfl, _⟩⟩⟩ := step_feeds_of_buf_ne ht hr hne
  · exact .inl ⟨c, hi⟩
  · exact .inr ⟨hd, .inl ⟨c, hi⟩⟩
  · exact .inr ⟨hd, .inr ⟨a, ty, p, crc, hi⟩⟩

/-- Settles O47: the block's reset loads `ACC` and leaves every decoder as `Decoder.reset` (`resetBlock_inst`). -/
theorem blockResetSetsEveryValue : Obligations.BlockResetSetsEveryValue := by
  refine fun s rest hin => ⟨_, step_reset hin, resetBlock_acc _, fun d => ?_⟩
  rw [resetBlock_inst]
  exact ⟨rfl, rfl, rfl, rfl, rfl⟩

/-- Settles O54: taking the input is all that the step does. -/
theorem emptyReadReachesNoDecoder : Obligations.EmptyReadReachesNoDecoder := fun _ _ hin => step_of_act hin
end

section
/-! The encoder against the decoder: each operand reader takes exactly the bytes that its operand was written in, and
leaves the rest (30_encoding.md; 00_scope.md R10; log 2). -/

namespace Sys2Proof

open Sys2Proof.Machine

/-- Any fuel that reaches the natural itself suffices for its digits, as it falls with each of them. -/
theorem takeNat_natBytes_append {fuel n : Nat} (h : n ≤ fuel) (rest : List Byte) :
    takeNat (natBytes fuel n ++ rest) = .ok (n, rest) := by
  induction fuel generalizing n with
  | zero =>
    obtain rfl : n = 0 := by omega
    rfl
  | succ fuel ih =>
    by_cases hlast : n < 128
    · have hbyte : n % 256 = n := by omega
      simp [natBytes, takeNat, hlast, hbyte]
    · have hbyte : (n % 128 + 128) % 256 = n % 128 + 128 := by omega
      have hdigits : n % 128 + 128 * (n / 128) = n := Nat.mod_add_div n 128
      simp [natBytes, takeNat, hlast, hbyte, ih (n := n / 128) (by omega), hdigits]

@[simp] theorem takeNat_encodeNat_append (n : Nat) (rest : List Byte) :
    takeNat (encodeNat n ++ rest) = .ok (n, rest) :=
  takeNat_natBytes_append (Nat.le_refl n) rest

@[simp] theorem takeHalf_be16_append (v : Half) (rest : List Byte) : takeHalf (be16 v ++ rest) = .ok (v, rest) := by
  calc takeHalf (be16 v ++ rest)
    _ = .ok (BitVec.ofNat 16 (beValue (be16 v)), rest) := rfl
    _ = .ok (v, rest) := by rw [beValue_be16, BitVec.ofNat_toNat, BitVec.setWidth_eq]

@[simp] theorem takeWord_be32_append (v : Word) (rest : List Byte) : takeWord (be32 v ++ rest) = .ok (v, rest) := by
  calc takeWord (be32 v ++ rest)
    _ = .ok (BitVec.ofNat 32 (beValue (be32 v)), rest) := rfl
    _ = .ok (v, rest) := by rw [beValue_be32, BitVec.ofNat_toNat, BitVec.setWidth_eq]

@[simp] theorem takeFlag_encodeFlag_append (b : Bool) (rest : List Byte) :
    takeFlag (encodeFlag b ++ rest) = .ok (b, rest) := by
  cases b <;> rfl

@[simp] theorem modeOfBit_modeBit (m : Mode) : modeOfBit (modeBit m) = m := by
  cases m <;> rfl

theorem decodeCrcInit_be32 (v : Word) : decodeCrcInit (be32 v) = .ok (.crcInit v) := by
  calc decodeCrcInit (be32 v)
    _ = (takeWord (be32 v ++ []) >>= fun (v, r) => noMore (.crcInit v) r) := rfl
    _ = .ok (.crcInit v) := by rw [takeWord_be32_append]; rfl

theorem decodeCrc32_be32_append (v : Word) (bs : List Byte) : decodeCrc32 (be32 v ++ bs) = .ok (.crc32 bs v) := by
  rw [decodeCrc32, takeWord_be32_append]
  rfl

theorem decodeEncode_encodeNat_append (addr type : Nat) (payload : List Byte) :
    decodeEncode (encodeNat addr ++ (encodeNat type ++ payload)) = .ok (.encode addr type payload) := by
  simp [decodeEncode, bind, Except.bind]

theorem decodeTryDecode_encodeNat_append (e : Nat) (w : List Byte) :
    decodeTryDecode (encodeNat e ++ w) = .ok (.tryDecode w e) := by
  rw [decodeTryDecode, takeNat_encodeNat_append]
  rfl

theorem decodeReceive_encodeNat_append (d : Nat) (c : List Byte) :
    decodeReceive (encodeNat d ++ c) = .ok (.receive d c) := by
  rw [decodeReceive, takeNat_encodeNat_append]
  rfl

/-- The last operand of a request is read like one with nothing after it. -/
theorem decodeAddDecoder_encodeNat (d : Nat) : decodeAddDecoder (encodeNat d) = .ok (.addDecoder d) := by
  rw [← List.append_nil (encodeNat d), decodeAddDecoder, takeNat_encodeNat_append]
  rfl

theorem decodeConfigure_encoded (d : Nat) (mode : Mode) (len : Nat) (type target : Half) (verbose : Bool) :
    decodeConfigure (encodeNat d ++ (be16 target ++ (be16 type ++ (encodeNat len ++
      (encodeFlag (modeBit mode) ++ encodeFlag verbose))))) = .ok (.configure d mode len type target verbose) := by
  rw [← List.append_nil (encodeFlag verbose)]
  simp [-List.append_nil, decodeConfigure, bind, Except.bind, noMore]

theorem decodeBroadcast_of_ne_nil {chunk : List Byte} (h : chunk ≠ []) :
    decodeBroadcast chunk = .ok (.broadcast chunk) := by
  cases chunk with
  | nil => exact absurd rfl h
  | cons b rest => rfl

/-- The decoder inverts the encoder, operation by operation: the select leads to the operand reader, which is the
inverse of the operation's own bytes. -/
theorem decode_encode {i : Instr} (h : i.wf = true) : decode (encode i) = .ok i := by
  cases i with
  | crcInit v => exact decodeCrcInit_be32 v
  | crcByte b => rfl
  | crcRead => rfl
  | encode addr type payload => exact decodeEncode_encodeNat_append addr type payload
  | tryDecode window e => exact decodeTryDecode_encodeNat_append e window
  | configure d mode len type target verbose => exact decodeConfigure_encoded d mode len type target verbose
  | receive d chunk => exact decodeReceive_encodeNat_append d chunk
  | reserved000 => rfl
  | crc32 bs v => exact decodeCrc32_be32_append v bs
  | addDecoder d => exact decodeAddDecoder_encodeNat d
  | broadcast chunk => exact decodeBroadcast_of_ne_nil (by simpa [Instr.wf] using h)
  | send bs => rfl
  | frame address type payload crc => exact decode_frameBytes address type payload crc

end Sys2Proof

open Sys2Proof

/-- Settles O56: each operand reader inverts its operand's bytes, so `decode_encode` holds select by select. -/
theorem decodeEncodeRoundTrip : Obligations.DecodeEncodeRoundTrip := fun _ hwf => decode_encode hwf
end
